-- ==== Sys2Proof/Word.lean ====
section
/-! DEFINITION. The words the engine handles: 32-bit register words (20_memory.md R43), 8-bit bus bytes
(20_memory.md R49) and 4-bit nibbles (00_scope.md R14). -/

namespace Sys2Proof

/-- A 32-bit register word or command word (R43, R61). -/
abbrev Word := BitVec 32

/-- An 8-bit expander byte or LCD byte (R49). -/
abbrev Byte := BitVec 8

/-- A 4-bit nibble, one half of a byte (R14). -/
abbrev Nibble := BitVec 4

end Sys2Proof
end

