-- ==== Sys2Proof/Syntax.lean ====
section
/-! DEFINITION. The six commands of 30_encoding.md R60, one constructor per row of spec/opcode_table.json.
Counts and indices are natural numbers, bounded by `Instr.wf`; raw bits are bit vectors. -/

namespace Sys2Proof

/-- A host command (R60). -/
inductive Instr where
  /-- INIT (R140). -/
  | init
  /-- CLEAR (R151). -/
  | clear
  /-- SET_CURSOR line, col (R147): the two-bit LINE and the eight-bit requested column. -/
  | setCursor (line col : Nat)
  /-- WRITE_TEXT line, len (R149): the two-bit LINE and the eight-bit text length. -/
  | writeText (line len : Nat)
  /-- WRITE_BYTE rs, data (R132). -/
  | writeByte (rs : Bool) (data : Byte)
  /-- WRITE_NIBBLE rs, nib (R124). -/
  | writeNibble (rs : Bool) (nib : Nibble)
  deriving DecidableEq, Repr

end Sys2Proof
end

