-- ==== Sys2Proof/WellFormed.lean ====
section
/-! DEFINITION. Which instruction terms a command word can carry: the operand widths of 30_encoding.md R63. -/

namespace Sys2Proof

/-- Every operand fits its field: LINE has two bits, ARG eight (R63). LINE 2 and 3 are well formed: they can be
encoded, and the command is then refused with RANGE_ERROR (R63, R173). -/
def Instr.wf : Instr → Bool
  | .init => true
  | .clear => true
  | .setCursor line col => decide (line < 4) && decide (col < 256)
  | .writeText line len => decide (line < 4) && decide (len < 256)
  | .writeByte _ _ => true
  | .writeNibble _ _ => true

end Sys2Proof
end

