-- ==== Sys2Proof/Decode.lean ====
section
/-! DEFINITION. The command word (30_encoding.md R61 to R68): the opcode map, its decoder, and the encoder. -/

namespace Sys2Proof

/-! ### Fields of a command word (R61, R71) -/

/-- OP = w[15:12] (R61). -/
def opField (w : Word) : BitVec 4 := w.extractLsb' 12 4

/-- LINE = w[9:8] (R71). -/
def lineField (w : Word) : Nat := (w.extractLsb' 8 2).toNat

/-- ARG = w[7:0] (R71): the column of SET_CURSOR, the length of WRITE_TEXT. -/
def argField (w : Word) : Nat := (w.extractLsb' 0 8).toNat

/-- RS = w[8] (R71). -/
def rsField (w : Word) : Bool := w.getLsbD 8

/-- DATA = w[7:0] (R71). -/
def dataField (w : Word) : Byte := w.extractLsb' 0 8

/-- NIB = w[3:0] (R71). -/
def nibField (w : Word) : Nibble := w.extractLsb' 0 4

/-! ### The opcode map (R66) -/

/-- The command a row of the opcode map selects. -/
inductive Op where
  | init | clear | setCursor | writeText | writeByte | writeNibble
  deriving DecidableEq, Repr

/-- The row of a command (R60). -/
def Instr.op : Instr → Op
  | .init => .init
  | .clear => .clear
  | .setCursor _ _ => .setCursor
  | .writeText _ _ => .writeText
  | .writeByte _ _ => .writeByte
  | .writeNibble _ _ => .writeNibble

/-- One row of the opcode map: a word matches it when the bits under `mask` equal `pattern`. -/
structure OpRow where
  op : Op
  pattern : Word
  mask : Word
  deriving DecidableEq, Repr

/-- The opcode map of R66, row by row. -/
def opcodeMap : List OpRow :=
  [ ⟨.init,        0x00001000#32, 0xFFFFFFFF#32⟩,
    ⟨.clear,       0x00002000#32, 0xFFFFFFFF#32⟩,
    ⟨.setCursor,   0x00003000#32, 0xFFFFFC00#32⟩,
    ⟨.writeText,   0x00004000#32, 0xFFFFFC00#32⟩,
    ⟨.writeByte,   0x00005000#32, 0xFFFFFE00#32⟩,
    ⟨.writeNibble, 0x00006000#32, 0xFFFFFEF0#32⟩ ]

/-- A word matches a row under its mask (R66). -/
def OpRow.selects (r : OpRow) (w : Word) : Bool := w &&& r.mask == r.pattern

/-- The operands of a word that selects `op` (R62 to R65, R71). -/
def operandsOf (op : Op) (w : Word) : Instr :=
  match op with
  | .init => .init
  | .clear => .clear
  | .setCursor => .setCursor (lineField w) (argField w)
  | .writeText => .writeText (lineField w) (argField w)
  | .writeByte => .writeByte (rsField w) (dataField w)
  | .writeNibble => .writeNibble (rsField w) (nibField w)

/-- Decoding (R66): the command of the one row the word matches; none for an illegal word (R67, R68). -/
def decode (w : Word) : Option Instr :=
  (opcodeMap.find? (fun r => r.selects w)).map (fun r => operandsOf r.op w)

/-! ### The encoder (R61 to R65) -/

/-- A word with OP in bits 15:12 and every other bit 0 (R61). -/
def opWord (op : BitVec 4) : Word := op.setWidth 32 <<< 12

/-- Format FL (R63): LINE in bits 9:8, ARG in bits 7:0. DESIGN CHOICE: an operand that does not fit its field is cut
to the field's low bits, since the spec gives no word for such a command; log entry 21. -/
def encodeFL (op : BitVec 4) (line arg : Nat) : Word :=
  opWord op ||| ((BitVec.ofNat 2 line).setWidth 32 <<< 8) ||| (BitVec.ofNat 8 arg).setWidth 32

/-- The word of a command (R60, R62 to R65). -/
def encode : Instr → Word
  | .init => opWord 0x1#4
  | .clear => opWord 0x2#4
  | .setCursor line col => encodeFL 0x3#4 line col
  | .writeText line len => encodeFL 0x4#4 line len
  | .writeByte rs data => opWord 0x5#4 ||| ((BitVec.ofBool rs).setWidth 32 <<< 8) ||| data.setWidth 32
  | .writeNibble rs nib => opWord 0x6#4 ||| ((BitVec.ofBool rs).setWidth 32 <<< 8) ||| nib.setWidth 32

/-- The instruction the decoder reads from the low `nbits` bits of `w`, every higher bit of the 32-bit command
word being 0. Every command is one 32-bit word (R69), numbered as the opcode table numbers it. -/
def decodeTableWord (nbits w : Nat) : Option Instr :=
  decode (BitVec.ofNat 32 (w % 2 ^ nbits))

end Sys2Proof
end

