-- ==== Sys2Proof/Config.lean ====
section
/-! DEFINITION. What a model instance fixes (00_scope.md R8 to R10) and the values the spec leaves to the
environment (93_implementation_defined.md U1, U2, U4, U16). -/

namespace Sys2Proof

/-- PinLayout (R10): the bit position of each signal within the expander output byte. -/
structure PinLayout where
  rs : Fin 8
  rw : Fin 8
  en : Fin 8
  bl : Fin 8
  d0 : Fin 8
  d1 : Fin 8
  d2 : Fin 8
  d3 : Fin 8
  deriving DecidableEq, Repr

/-- The parameters of a model instance (R8 to R10; HOST_BASE of R46). The six counts are the `N_x` of R9, which
"a model may instead take ... directly as parameters"; `Params.valid` holds them to their minimums. -/
structure Params where
  /-- F_CLK_HZ, an OPEN parameter (R9). -/
  fClkHz : Nat
  nEn : Nat
  nSettle : Nat
  nExt : Nat
  nPower : Nat
  nInitGap : Nat
  nSetup : Nat
  /-- I2C_ADDR (R10), the constant on bus_addr. -/
  i2cAddr : BitVec 7
  pins : PinLayout
  /-- HOST_BASE (R46): where the register window starts in the host's address map, an OPEN parameter. -/
  hostBase : Nat
  deriving DecidableEq, Repr

namespace Config

/-- LINES (R10). -/
def lines : Nat := 2

/-- COLUMNS (R10). -/
def columns : Nat := 16

/-- TEXT_CAP (R10): the characters of one WRITE_TEXT. -/
def textCap : Nat := 16

/-- PAD_CHAR (R10). -/
def padChar : Byte := 0x20#8

/-- The default PinLayout of R10 and R70. PRESUMED: the spec takes it from general knowledge (G1); log entry 6. -/
def defaultPins : PinLayout :=
  { rs := 0, rw := 1, en := 2, bl := 3, d0 := 4, d1 := 5, d2 := 6, d3 := 7 }

/-- The parameters of the spec's examples: 1 MHz counts (R9), default pins, I2C_ADDR 0x27 (R10).
DESIGN CHOICE: only `State.reset` uses them; log entries 4 and 5. -/
def defaultParams : Params :=
  { fClkHz := 1000000, nEn := 1, nSettle := 100, nExt := 2000, nPower := 15000, nInitGap := 150, nSetup := 0,
    i2cAddr := 0x27#7, pins := defaultPins, hostBase := 0 }

/-- bus_done in a cycle for which State lists no value: any value (U1, U3, U4; D48). -/
opaque freeBusDone : Nat → Bool

/-- bus_err in a cycle for which State lists no value: any value (U2, U4; D48). -/
opaque freeBusErr : Nat → Bool

/-- What a host read returns in a cycle with rst_n = 0: any value (U16; D45). -/
opaque freeResetRead : Nat → Word

/-- What a host read outside the engine's window returns: another target's data, which this spec does not give. -/
opaque freeForeignRead : Nat → Word

end Config

end Sys2Proof
end

