-- ==== Sys2Proof/Machine/State.lean ====
section
/-! DEFINITION. The state of the machine: the engine's registers and hidden state (10_state.md R20 to R37), the
parameters of the instance (00_scope.md R8 to R10), and the inputs that the host, the reset pin and the bus agent
drive in the coming cycles (00_scope.md R7). -/

namespace Sys2Proof.Machine

/-- PHASE (R22). -/
inductive Phase where
  | idle | pre | issue | wait | post
  deriving DecidableEq, Repr

/-- The ControllerState in STATUS.STATE (R25). The values 6 and 7 are never held, so they are no constructors. -/
inductive CtrlState where
  | uninitialized | resetting | functionSet | displayConfigured | entryModeSet | ready
  deriving DecidableEq, Repr

/-- The result code in STATUS.RESULT (R27, R170). Value 5 is never produced, so it is no constructor. -/
inductive ResultCode where
  | ok | transportError | rangeError | notInitialized | illegalCommand | none | pending
  deriving DecidableEq, Repr

/-- The state update an entry carries (R101, R107). -/
inductive Tag where
  | none
  | state (c : CtrlState)
  | cursor (line : BitVec 1) (col : BitVec 4)
  | stateCursor (c : CtrlState) (line : BitVec 1) (col : BitVec 4)
  deriving DecidableEq, Repr

/-- One entry E(b, d, tag) of a micro-list (R101): a bus write of `byte`, then a post-delay of `delay` cycles. -/
structure Entry where
  byte : Byte
  delay : Nat
  tag : Tag
  deriving DecidableEq, Repr

/-- A micro-list (R23, R101): the pre-delay and the entries. -/
structure MicroList where
  pre : Nat
  entries : List Entry
  deriving DecidableEq, Repr

/-- CONFIG's fields (R29); bits 31:2 read 0 and ignore writes. -/
structure DisplayConfig where
  blink : Bool
  cursorOn : Bool
  deriving DecidableEq, Repr

/-- CURSOR's fields (R30). -/
structure CursorPos where
  line : BitVec 1
  col : BitVec 4
  deriving DecidableEq, Repr

/-- SHADOW's fields (R31). -/
structure Shadow where
  last : Byte
  valid : Bool
  deriving DecidableEq, Repr

/-- FAULT's fields (R32): FBYTE, FIDX and FVALID. -/
structure FaultRecord where
  byte : Byte
  idx : BitVec 8
  valid : Bool
  deriving DecidableEq, Repr

/-- Everything the engine holds (R20, R37). STATUS.BUSY is computed from `phase` (R26). -/
structure Engine where
  phase : Phase
  idx : Nat
  ml : MicroList
  wcnt : Nat
  ctrl : CtrlState
  result : ResultCode
  ovr : Bool
  config : DisplayConfig
  cursor : CursorPos
  shadow : Shadow
  fault : FaultRecord
  text0 : Word
  text1 : Word
  text2 : Word
  text3 : Word
  deriving DecidableEq, Repr

/-- The engine after reset (R37, R200). -/
def Engine.reset : Engine :=
  { phase := .idle, idx := 0, ml := ⟨0, []⟩, wcnt := 0, ctrl := .uninitialized, result := .none, ovr := false,
    config := ⟨false, false⟩, cursor := ⟨0, 0⟩, shadow := ⟨0, false⟩, fault := ⟨0, 0, false⟩,
    text0 := 0, text1 := 0, text2 := 0, text3 := 0 }

/-- The bus agent's two wires in one cycle (R103). -/
structure BusIn where
  done : Bool
  err : Bool
  deriving DecidableEq, Repr

/-- What the host does in one cycle (R41, R73, R74); addresses are byte addresses of the host's own map. -/
inductive HostOp where
  /-- No access in this cycle. -/
  | idle
  /-- `MemRead(addr, 4)`. -/
  | read (addr : Nat)
  /-- `MemWrite(addr, 4, data)`. -/
  | write (addr : Nat) (data : Word)
  /-- One read of STATUS, repeated in the next cycle while the BUSY bit read is 1 (R74). -/
  | waitIdle
  deriving DecidableEq, Repr

/-- The environment (R7): the MODEL's own fields, not registers of the engine; log entries 1, 3 and 8. -/
structure Env where
  /-- The number of the current cycle (R12); the free values are applied to it. -/
  cycle : Nat
  /-- The host's accesses still to come, the head in this cycle. -/
  hostQ : List HostOp
  /-- rst_n in the coming cycles, the head in this cycle. -/
  rstQ : List Bool
  /-- bus_done and bus_err in the coming cycles, the head in this cycle. -/
  busQ : List BusIn
  /-- The data the last host read returned. -/
  rdata : Word
  deriving DecidableEq, Repr

/-- The state of the machine. `params` is fixed for an instance: no step writes it (log entry 4). -/
structure State where
  params : Params
  eng : Engine
  env : Env
  deriving DecidableEq, Repr

/-- Reasons the machine stops with a fault. The spec gives the engine none ("The engine has no traps"); each of
these is raised only in a state no run reaches, and is safe. -/
inductive Fault where
  /-- Raised by the sequencer when PHASE is ISSUE, WAIT or POST and IDX names no entry of ML, against R22. Safe:
  the machine stops where the spec gives no behaviour; log entry 9. -/
  | noCurrentEntry
  /-- Raised by the sequencer when PHASE is PRE or POST and WCNT is 0, where R102 would subtract from 0. Safe: the
  machine stops where the spec gives no behaviour; log entry 9. -/
  | delayUnderflow
  deriving DecidableEq, Repr

/-- Reasons the model gives no step. -/
inductive Refusal where
  /-- Raised by exec for an instruction without a meaning. Safe. No arm uses it. -/
  | notModelled (mnemonic : String)
  /-- Raised by step when the instance's parameters break R9 or R10: "The model is then outside this spec" (U8).
  Safe; log entry 7. -/
  | parametersOutsideSpec
  deriving DecidableEq, Repr

/-- The environment before the first cycle: nothing listed; log entries 1, 3 and 8. -/
def Env.start : Env := { cycle := 0, hostQ := [], rstQ := [], busQ := [], rdata := 0 }

/-- The machine right after reset, for an instance with the parameters `p` (R37). -/
def State.resetWith (p : Params) : State := { params := p, eng := Engine.reset, env := Env.start }

/-- The machine right after reset (R37), with the parameters of the spec's examples; log entries 4 and 5. -/
def State.reset : State := State.resetWith Config.defaultParams

end Sys2Proof.Machine
end

