-- ==== Sys2Proof/Machine/Flags.lean ====
section
/-! DEFINITION. The status bits and result codes (10_state.md R25 to R28; 60_exceptions.md R170 to R176): their
values in the STATUS register, and the code a command gets at acceptance. -/

namespace Sys2Proof.Machine

/-- STATUS.BUSY "is 1 exactly when PHASE ≠ IDLE" (R26). -/
def Engine.busy (e : Engine) : Bool := e.phase != .idle

/-- STATUS.STATE's encoding (R25). -/
def CtrlState.code : CtrlState → Nat
  | .uninitialized => 0
  | .resetting => 1
  | .functionSet => 2
  | .displayConfigured => 3
  | .entryModeSet => 4
  | .ready => 5

/-- STATUS.RESULT's encoding (R27, R170). -/
def ResultCode.code : ResultCode → Nat
  | .ok => 0
  | .transportError => 1
  | .rangeError => 2
  | .notInitialized => 3
  | .illegalCommand => 4
  | .none => 6
  | .pending => 7

/-- The Ready gate (R152, R172). -/
def gateReady (c : CtrlState) : ResultCode :=
  if c = .ready then .ok else .notInitialized

/-- The Ready gate, then the range of LINE (R172, R173, in the order of R176). -/
def gateReadyLine (c : CtrlState) (line : Nat) : ResultCode :=
  if c = .ready then (if line < Config.lines then .ok else .rangeError) else .notInitialized

/-- The check of a legal word's command (R176, after its first line). -/
def checkInstr (i : Instr) (c : CtrlState) : ResultCode :=
  match i with
  | .init => .ok
  | .clear => gateReady c
  | .setCursor line _ => gateReadyLine c line
  | .writeText line _ => gateReadyLine c line
  | .writeByte _ _ => .ok
  | .writeNibble _ _ => .ok

/-- check(w, STATE) (R176). -/
def check (w : Word) (c : CtrlState) : ResultCode :=
  match decode w with
  | none => .illegalCommand
  | some i => checkInstr i c

end Sys2Proof.Machine
end

