-- ==== Sys2Proof/Machine/Operands.lean ====
section
/-! DEFINITION. The operand forms (30_encoding.md R71; 43_controller.md R143, R147, R148, R150): clamping a column,
cutting a length, the text buffer, and the LCD command bytes computed from them. -/

namespace Sys2Proof.Machine

/-- `col' = min(ARG, 15)`: "column clamped to [0,16)" (R71, R147). -/
def clampColumn (col : Nat) : Nat := min col (Config.columns - 1)

/-- `n = min(ARG, 16)` (R71, R150). -/
def cutLength (len : Nat) : Nat := min len Config.textCap

/-- The set-DDRAM-address command byte `0x80 | (line = 1 ? 0x40 : 0x00) | col'` (R148). -/
def ddramCommand (line col : Nat) : Byte :=
  0x80#8 ||| (if line = 1 then 0x40#8 else 0x00#8) ||| BitVec.ofNat 8 col

/-- The word TEXTj (R33). -/
def Engine.textWord (e : Engine) (j : Nat) : Word :=
  match j with
  | 0 => e.text0
  | 1 => e.text1
  | 2 => e.text2
  | _ => e.text3

/-- TB[k] (R33, R47): bits [8*i+7 : 8*i] of TEXTj with j = k >> 2 and i = k & 3. -/
def Engine.tb (e : Engine) (k : Nat) : Byte := (e.textWord (k / 4)).extractLsb' (8 * (k % 4)) 8

/-- The character c_k of WRITE_TEXT (R150): TB[k] for k < n, PAD_CHAR after it. -/
def Engine.textChar (e : Engine) (len k : Nat) : Byte :=
  if k < cutLength len then e.tb k else Config.padChar

/-- The 16 characters of WRITE_TEXT, TB[0] first (R47, R150). -/
def Engine.textChars (e : Engine) (len : Nat) : List Byte :=
  (List.range Config.textCap).map (e.textChar len)

/-- DCTL(CONFIG) = 0x08 | 0x04 | (CURSOR_ON << 1) | BLINK (R143). -/
def displayControl (c : DisplayConfig) : Byte :=
  0x08#8 ||| 0x04#8 ||| ((BitVec.ofBool c.cursorOn).setWidth 8 <<< 1) ||| (BitVec.ofBool c.blink).setWidth 8

end Sys2Proof.Machine
end

