-- ==== Sys2Proof/Machine/Packer.lean ====
section
/-! DEFINITION. The bit-packer (41_nibble.md R120, R121) and the reading of its bytes back (R126). -/

namespace Sys2Proof

/-- A byte with signal `b` at bit `pos` and every other bit 0. -/
def placeBit (b : Bool) (pos : Fin 8) : Byte := (BitVec.ofBool b).setWidth 8 <<< pos.val

/-- pack(v, rs, en) (R121): BL = 1 and RW = 0 on every byte (R120). -/
def pack (l : PinLayout) (v : Nibble) (rs en : Bool) : Byte :=
  placeBit true l.bl ||| placeBit rs l.rs ||| placeBit en l.en ||| placeBit false l.rw
    ||| placeBit (v.getLsbD 0) l.d0 ||| placeBit (v.getLsbD 1) l.d1
    ||| placeBit (v.getLsbD 2) l.d2 ||| placeBit (v.getLsbD 3) l.d3

/-- The level of the signal at `pos` in an expander byte (R70). -/
def pinOf (pos : Fin 8) (b : Byte) : Bool := b.getLsbD pos.val

/-- The data bits of an expander byte as a nibble: data bit i carries bit i of the nibble (R70). -/
def dataPins (l : PinLayout) (b : Byte) : Nibble :=
  BitVec.ofBool (pinOf l.d3 b) ++ BitVec.ofBool (pinOf l.d2 b)
    ++ BitVec.ofBool (pinOf l.d1 b) ++ BitVec.ofBool (pinOf l.d0 b)

end Sys2Proof
end

