-- ==== Sys2Proof/Machine/MicroLists.lean ====
section
/-! DEFINITION. The micro-lists: NIB (41_nibble.md R122), BYTE (42_byte.md R130), the list of each command, and
build (40_command_engine.md R109). -/

namespace Sys2Proof.Machine

/-- NIB(v, rs, dpost, tag) (R122): the three writes of one enable pulse. -/
def nib (p : Params) (v : Nibble) (rs : Bool) (dpost : Nat) (tag : Tag) : List Entry :=
  [ ⟨pack p.pins v rs false, p.nSetup, .none⟩,
    ⟨pack p.pins v rs true, p.nEn, .none⟩,
    ⟨pack p.pins v rs false, dpost, tag⟩ ]

/-- X(b, rs) (R130): N_EXT after the command bytes CLEAR (0x01) and HOME (0x02), else 0. -/
def extendedWait (p : Params) (b : Byte) (rs : Bool) : Nat :=
  if rs = false ∧ (b = 0x01#8 ∨ b = 0x02#8) then p.nExt else 0

/-- BYTE(b, rs, tag) (R130): the high nibble, then the low nibble. -/
def byteEntries (p : Params) (b : Byte) (rs : Bool) (tag : Tag) : List Entry :=
  nib p (b.extractLsb' 4 4) rs p.nSettle .none
    ++ nib p (b.extractLsb' 0 4) rs (p.nSettle + extendedWait p b rs) tag

/-- NIBLIST (R124). -/
def nibList (p : Params) (rs : Bool) (v : Nibble) : MicroList :=
  ⟨0, nib p v rs p.nSettle .none⟩

/-- BYTELIST (R132). -/
def byteList (p : Params) (rs : Bool) (b : Byte) : MicroList :=
  ⟨0, byteEntries p b rs .none⟩

/-- INITLIST (R140). -/
def initList (p : Params) (c : DisplayConfig) : MicroList :=
  ⟨p.nPower,
    nib p 0x3#4 false (max p.nSettle p.nInitGap) .none
      ++ nib p 0x3#4 false p.nSettle .none
      ++ nib p 0x3#4 false p.nSettle .none
      ++ nib p 0x2#4 false p.nSettle (.state .resetting)
      ++ byteEntries p 0x28#8 false (.state .functionSet)
      ++ byteEntries p (displayControl c) false (.state .displayConfigured)
      ++ byteEntries p 0x06#8 false (.state .entryModeSet)
      ++ byteEntries p 0x01#8 false .none
      ++ byteEntries p 0x80#8 false (.stateCursor .ready 0 0)⟩

/-- CURLIST (R147). -/
def cursorList (p : Params) (line col : Nat) : MicroList :=
  ⟨0, byteEntries p (ddramCommand line (clampColumn col)) false
        (.cursor (BitVec.ofNat 1 line) (BitVec.ofNat 4 (clampColumn col)))⟩

/-- TEXTLIST (R149): the cursor byte for (line, 0), then the 16 characters as data bytes. -/
def textList (p : Params) (line : Nat) (chars : List Byte) : MicroList :=
  ⟨0, byteEntries p (ddramCommand line 0) false (.cursor (BitVec.ofNat 1 line) 0)
        ++ chars.flatMap (fun c => byteEntries p c true .none)⟩

/-- CLEARLIST (R151). -/
def clearList (p : Params) : MicroList :=
  ⟨0, byteEntries p 0x01#8 false (.cursor 0 0)⟩

/-- build (R109): the micro-list of a command, from CONFIG and the text buffer as the engine holds them. -/
def build (p : Params) (e : Engine) : Instr → MicroList
  | .init => initList p e.config
  | .clear => clearList p
  | .setCursor line col => cursorList p line col
  | .writeText line len => textList p line (e.textChars len)
  | .writeByte rs data => byteList p rs data
  | .writeNibble rs v => nibList p rs v

end Sys2Proof.Machine
end

