-- ==== Sys2Proof/Machine/Ops.lean ====
section
/-! DEFINITION. The shared operations: the sequencer's cycle (40_command_engine.md R102), acceptance (R100), and the
ways a command ends (60_exceptions.md R170, R178): refusal, abort on a transport error, and normal completion. -/

namespace Sys2Proof.Machine

/-! ### How a command starts and ends -/

/-- Acceptance of a command with micro-list `ml` (R100). -/
def Engine.accept (ml : MicroList) (e : Engine) : Engine :=
  { e with
    ml := ml
    idx := 0
    result := .pending
    fault := { e.fault with valid := false }
    wcnt := if 0 < ml.pre then ml.pre else e.wcnt
    phase := if 0 < ml.pre then .pre else .issue }

/-- Acceptance of INIT: STATUS.STATE <- 0 besides (R100, R140). -/
def Engine.acceptInit (ml : MicroList) (e : Engine) : Engine :=
  { e.accept ml with ctrl := .uninitialized }

/-- Refusal at acceptance (R110, R178): only STATUS.RESULT changes. -/
def Engine.refuse (code : ResultCode) (e : Engine) : Engine :=
  { e with result := code }

/-- abort(): the write of byte `b` failed (R106, R174). -/
def Engine.abort (b : Byte) (e : Engine) : Engine :=
  { e with
    fault := ⟨b, BitVec.ofNat 8 e.idx, true⟩
    shadow := { e.shadow with valid := false }
    ctrl := .uninitialized
    result := .transportError
    phase := .idle
    wcnt := 0 }

/-- The update of a tag (R107). -/
def Engine.applyTag (t : Tag) (e : Engine) : Engine :=
  match t with
  | .none => e
  | .state c => { e with ctrl := c }
  | .cursor line col => { e with cursor := ⟨line, col⟩ }
  | .stateCursor c line col => { e with ctrl := c, cursor := ⟨line, col⟩ }

/-- finish() for an entry with tag `t` (R102, R105). -/
def Engine.finish (t : Tag) (e : Engine) : Engine :=
  if e.idx + 1 = e.ml.entries.length then
    { e.applyTag t with phase := .idle, result := .ok }
  else
    { e.applyTag t with phase := .issue, idx := e.idx + 1 }

/-! ### One cycle of the sequencer (R102) -/

/-- A PRE cycle (R102). WCNT = 0 here is no state of a run; log entry 9. -/
def Engine.preCycle (e : Engine) : Except Fault Engine :=
  if e.wcnt = 1 then .ok { e with wcnt := 0, phase := .issue }
  else if e.wcnt = 0 then .error .delayUnderflow
  else .ok { e with wcnt := e.wcnt - 1 }

/-- An ISSUE cycle (R102). -/
def Engine.issueCycle (e : Engine) : Except Fault Engine :=
  .ok { e with phase := .wait }

/-- A successful done for the entry `x` (R102). -/
def Engine.doneCycle (x : Entry) (e : Engine) : Engine :=
  if x.delay = 0 then { e with shadow := ⟨x.byte, true⟩ }.finish x.tag
  else { e with shadow := ⟨x.byte, true⟩, wcnt := x.delay, phase := .post }

/-- A WAIT cycle for the entry `x` (R102, R111, R113): the one phase that samples the bus agent's wires. -/
def Engine.waitCycle (x : Entry) (b : BusIn) (e : Engine) : Except Fault Engine :=
  if b.done && b.err then .ok (e.abort x.byte)
  else if b.done then .ok (e.doneCycle x)
  else .ok e

/-- A POST cycle for the entry `x` (R102). WCNT = 0 here is no state of a run; log entry 9. -/
def Engine.postCycle (x : Entry) (e : Engine) : Except Fault Engine :=
  if e.wcnt = 1 then .ok ({ e with wcnt := 0 }.finish x.tag)
  else if e.wcnt = 0 then .error .delayUnderflow
  else .ok { e with wcnt := e.wcnt - 1 }

/-- The engine's action in one cycle without reset, with the bus agent's wires `b` (R102). -/
def Engine.cycle (b : BusIn) (e : Engine) : Except Fault Engine :=
  match e.phase, e.ml.entries[e.idx]? with
  | .idle, _ => .ok e
  | .pre, _ => e.preCycle
  | .issue, some _ => e.issueCycle
  | .wait, some x => e.waitCycle x b
  | .post, some x => e.postCycle x
  | _, none => .error .noCurrentEntry

/-! ### A cycle of the machine -/

/-- The bus agent's wires in this cycle: as listed, and past the list free values (U1 to U4). -/
def Env.busNow (v : Env) : BusIn :=
  match v.busQ with
  | b :: _ => b
  | [] => ⟨Config.freeBusDone v.cycle, Config.freeBusErr v.cycle⟩

/-- rst_n = 0 in this cycle (R200); past the list the reset is released. -/
def Env.inReset (v : Env) : Bool :=
  match v.rstQ with
  | r :: _ => !r
  | [] => false

/-- The engine's own cycle (R102), after the host's write of this cycle has made the engine `e`. -/
def engineCycle (e : Engine) (s : State) : Host.Outcome State Fault Refusal :=
  match e.cycle s.env.busNow with
  | .ok e' => .next { s with eng := e' }
  | .error r => .fault r

/-- A host write to CMD in this cycle (R100, R56). While BUSY the write is dropped, OVR is set and the running
command goes on. Otherwise `code` says whether the command is refused, and `start` is its acceptance. -/
def commandWrite (code : ResultCode) (start : Engine → Engine) (s : State) :
    Host.Outcome State Fault Refusal :=
  if s.eng.busy then engineCycle { s.eng with ovr := true } s
  else if code = .ok then .next { s with eng := start s.eng }
  else .next { s with eng := s.eng.refuse code }

/-- A host write of an illegal word to CMD (R67, R68, R171). -/
def illegalCommand (s : State) : Host.Outcome State Fault Refusal :=
  commandWrite .illegalCommand id s

/-- A cycle with rst_n = 0 (R200, R201). -/
def resetCycle (s : State) : State := { s with eng := Engine.reset }

end Sys2Proof.Machine
end

