-- ==== Sys2Proof/Machine/ByteSeq.lean ====
section
/-! DEFINITION. WRITE_BYTE (42_byte.md R132). -/

namespace Sys2Proof.Machine

/-- WRITE_BYTE rs, data (R132): accepted in every STATE. -/
def execWriteByte (rs : Bool) (data : Byte) (s : State) : Host.Outcome State Fault Refusal :=
  commandWrite .ok (fun e => e.accept (byteList s.params rs data)) s

end Sys2Proof.Machine
end

