-- ==== Sys2Proof/Machine/Controller.lean ====
section
/-! DEFINITION. INIT, SET_CURSOR, WRITE_TEXT and CLEAR (43_controller.md R140 to R152). -/

namespace Sys2Proof.Machine

/-- INIT (R140): accepted in every STATE; CONFIG is read at acceptance. -/
def execInit (s : State) : Host.Outcome State Fault Refusal :=
  commandWrite .ok (fun e => e.acceptInit (initList s.params e.config)) s

/-- CLEAR (R151): needs STATE = Ready. -/
def execClear (s : State) : Host.Outcome State Fault Refusal :=
  commandWrite (gateReady s.eng.ctrl) (fun e => e.accept (clearList s.params)) s

/-- SET_CURSOR line, col (R147): needs STATE = Ready and LINE in 0..1. -/
def execSetCursor (line col : Nat) (s : State) : Host.Outcome State Fault Refusal :=
  commandWrite (gateReadyLine s.eng.ctrl line) (fun e => e.accept (cursorList s.params line col)) s

/-- WRITE_TEXT line, len (R149): needs STATE = Ready and LINE in 0..1; TB is read at acceptance. -/
def execWriteText (line len : Nat) (s : State) : Host.Outcome State Fault Refusal :=
  commandWrite (gateReadyLine s.eng.ctrl line) (fun e => e.accept (textList s.params line (e.textChars len))) s

end Sys2Proof.Machine
end

