-- ==== Sys2Proof/Machine/Nibble.lean ====
section
/-! DEFINITION. WRITE_NIBBLE (41_nibble.md R124). -/

namespace Sys2Proof.Machine

/-- WRITE_NIBBLE rs, nib (R124): accepted in every STATE. -/
def execWriteNibble (rs : Bool) (v : Nibble) (s : State) : Host.Outcome State Fault Refusal :=
  commandWrite .ok (fun e => e.accept (nibList s.params rs v)) s

end Sys2Proof.Machine
end

