-- ==== Sys2Proof/Machine/Dispatch.lean ====
section
/-! DEFINITION. One arm per command: the cycle in which the host writes the command's word to CMD
(40_command_engine.md R100, R109). -/

namespace Sys2Proof.Machine

def exec (i : Instr) (s : State) : Host.Outcome State Fault Refusal :=
  match i with
  | .init => Sys2Proof.Machine.execInit s
  | .clear => Sys2Proof.Machine.execClear s
  | .setCursor line col => Sys2Proof.Machine.execSetCursor line col s
  | .writeText line len => Sys2Proof.Machine.execWriteText line len s
  | .writeByte rs data => Sys2Proof.Machine.execWriteByte rs data s
  | .writeNibble rs v => Sys2Proof.Machine.execWriteNibble rs v s

end Sys2Proof.Machine
end

