-- ==== Sys2Proof/Machine/HostPort.lean ====
section
/-! DEFINITION. The host register port (20_memory.md R41 to R46, R56), and what the host does in a cycle. -/

namespace Sys2Proof.Machine

/-! ### Addresses (R42, R46) -/

/-- The registers of the map (R46). -/
inductive Reg where
  | cmd | status | config | cursor | shadow | fault | text0 | text1 | text2 | text3
  deriving DecidableEq, Repr

/-- A register's byte offset within the window (R46). -/
def Reg.offset : Reg → Nat
  | .cmd => 0x00
  | .status => 0x04
  | .config => 0x08
  | .cursor => 0x0C
  | .shadow => 0x10
  | .fault => 0x14
  | .text0 => 0x20
  | .text1 => 0x24
  | .text2 => 0x28
  | .text3 => 0x2C

/-- The register an offset addr[5:0] reaches: the word at `addr & 0x3C` (R42); none for a reserved one (R45). -/
def regAt (off : BitVec 6) : Option Reg :=
  match (off &&& 0x3C#6).toNat with
  | 0x00 => some .cmd
  | 0x04 => some .status
  | 0x08 => some .config
  | 0x0C => some .cursor
  | 0x10 => some .shadow
  | 0x14 => some .fault
  | 0x20 => some .text0
  | 0x24 => some .text1
  | 0x28 => some .text2
  | 0x2C => some .text3
  | _ => none

/-- The byte address of a register in the host's map (R46, R73). -/
def hostAddr (p : Params) (r : Reg) : Nat := p.hostBase + r.offset

/-- addr[5:0] of a host address inside the engine's 64-byte window; none outside it (R40, R46). -/
def windowOffset (p : Params) (addr : Nat) : Option (BitVec 6) :=
  if p.hostBase ≤ addr ∧ addr < p.hostBase + 64 then some (BitVec.ofNat 6 (addr - p.hostBase)) else none

/-! ### Reads (R41, R44, R46) -/

/-- Bit `pos` of a register word. -/
def flagAt (b : Bool) (pos : Nat) : Word := (BitVec.ofBool b).setWidth 32 <<< pos

/-- The STATUS word (R25 to R28, R46). -/
def Engine.statusWord (e : Engine) : Word :=
  flagAt e.busy 0 ||| (BitVec.ofNat 32 e.ctrl.code <<< 1) ||| (BitVec.ofNat 32 e.result.code <<< 4)
    ||| flagAt e.ovr 7

/-- The value a read of a register returns (R46). CMD reads 0 (R44). -/
def Engine.readReg (e : Engine) : Reg → Word
  | .cmd => 0
  | .status => e.statusWord
  | .config => flagAt e.config.blink 0 ||| flagAt e.config.cursorOn 1
  | .cursor => e.cursor.col.setWidth 32 ||| (e.cursor.line.setWidth 32 <<< 4)
  | .shadow => e.shadow.last.setWidth 32 ||| flagAt e.shadow.valid 8
  | .fault => e.fault.byte.setWidth 32 ||| (e.fault.idx.setWidth 32 <<< 8) ||| flagAt e.fault.valid 16
  | .text0 => e.text0
  | .text1 => e.text1
  | .text2 => e.text2
  | .text3 => e.text3

/-- The value of a read at an offset: 0 at a reserved one (R45). -/
def Engine.readOffset (e : Engine) (off : BitVec 6) : Word :=
  match regAt off with
  | some r => e.readReg r
  | none => 0

/-- `MemRead(addr, 4)` in this cycle (R41). In a reset cycle the data are free (U16); outside the window another
target answers. -/
def readData (s : State) (addr : Nat) : Word :=
  match windowOffset s.params addr with
  | none => Config.freeForeignRead s.env.cycle
  | some off => if s.env.inReset then Config.freeResetRead s.env.cycle else s.eng.readOffset off

/-! ### Writes (R44, R45, R56) -/

/-- A host write to CONFIG or TEXTj: dropped with OVR <- 1 while BUSY (R56), else `store` (R44). -/
def Engine.guardedWrite (store : Engine → Engine) (e : Engine) : Engine :=
  if e.busy then { e with ovr := true } else store e

/-- The effect of a host write of `w` on a register other than CMD (R44). A write to CMD is a command (R100). -/
def Engine.writeReg (r : Reg) (w : Word) (e : Engine) : Engine :=
  match r with
  | .cmd => e
  | .status => if w.getLsbD 7 then { e with ovr := false } else e
  | .config => e.guardedWrite (fun e => { e with config := ⟨w.getLsbD 0, w.getLsbD 1⟩ })
  | .cursor => e
  | .shadow => e
  | .fault => e
  | .text0 => e.guardedWrite (fun e => { e with text0 := w })
  | .text1 => e.guardedWrite (fun e => { e with text1 := w })
  | .text2 => e.guardedWrite (fun e => { e with text2 := w })
  | .text3 => e.guardedWrite (fun e => { e with text3 := w })

/-! ### The host's part of a cycle -/

/-- What reaches the engine's inputs from the host and the reset pin in one cycle. -/
inductive PortAction where
  /-- rst_n = 0: host accesses are ignored (R200). -/
  | reset
  /-- A write of `w` to CMD (R100). -/
  | command (w : Word)
  /-- A write of `w` to another register. -/
  | write (r : Reg) (w : Word)
  /-- No write: no access, a read, a write to a reserved offset (R45) or outside the window. -/
  | quiet
  deriving DecidableEq, Repr

/-- The register a write at a host address reaches. -/
def regOfAddr (p : Params) (addr : Nat) : Option Reg := (windowOffset p addr).bind regAt

/-- What the host's operation does at the port. -/
def hostAction (p : Params) (op : HostOp) : PortAction :=
  match op with
  | .idle => .quiet
  | .read _ => .quiet
  | .waitIdle => .quiet
  | .write addr w =>
    match regOfAddr p addr with
    | some .cmd => .command w
    | some r => .write r w
    | none => .quiet

/-- The port in this cycle. -/
def portAction (s : State) : PortAction :=
  if s.env.inReset then .reset
  else
    match s.env.hostQ with
    | [] => .quiet
    | op :: _ => hostAction s.params op

/-- The host's accesses left after this cycle: `wait_idle` stays while the BUSY bit it reads is 1 (R74). -/
def hostQNext (s : State) : List HostOp :=
  match s.env.hostQ with
  | [] => []
  | .waitIdle :: q => if (readData s (hostAddr s.params .status)).getLsbD 0 then .waitIdle :: q else q
  | _ :: q => q

/-- The data of the last host read after this cycle (R41). -/
def rdataNext (s : State) : Word :=
  match s.env.hostQ with
  | .read addr :: _ => readData s addr
  | .waitIdle :: _ => readData s (hostAddr s.params .status)
  | _ => s.env.rdata

/-- The environment of the next cycle. -/
def envNext (s : State) : Env :=
  { cycle := s.env.cycle + 1, hostQ := hostQNext s, rstQ := s.env.rstQ.tail, busQ := s.env.busQ.tail,
    rdata := rdataNext s }

/-- `s` with the environment moved on by the cycle that began in `s0`. -/
def endCycle (s0 s : State) : State := { s with env := envNext s0 }

/-- A map over the next state of an outcome. -/
def mapNext (f : State → State) : Host.Outcome State Fault Refusal → Host.Outcome State Fault Refusal
  | .next s => .next (f s)
  | .fault r => .fault r
  | .refused r => .refused r

end Sys2Proof.Machine
end

