-- ==== Sys2Proof/Machine/Timing.lean ====
section
/-! DEFINITION. Times as cycle counts and the constraints on an instance's parameters (00_scope.md R8 to R10). -/

namespace Sys2Proof

/-- `ceil(T * F_CLK_HZ)` for a time of `us` microseconds (R9). -/
def minCycles (us fClkHz : Nat) : Nat := (us * fClkHz + 999999) / 1000000

/-- The eight PIN_* positions (R10). -/
def PinLayout.positions (l : PinLayout) : List (Fin 8) := [l.rs, l.rw, l.en, l.bl, l.d0, l.d1, l.d2, l.d3]

/-- "The eight PIN_* values must be distinct and each in 0..7" (R10). -/
def PinLayout.valid (l : PinLayout) : Bool := decide l.positions.Nodup

/-- Every count meets its minimum (R9) with the source's times of R8: 1 µs, 100 µs, 2 ms, 15 ms, 150 µs, 0. -/
def Params.timesValid (p : Params) : Bool :=
  decide (minCycles 1 p.fClkHz ≤ p.nEn) && decide (minCycles 100 p.fClkHz ≤ p.nSettle)
    && decide (minCycles 2000 p.fClkHz ≤ p.nExt) && decide (minCycles 15000 p.fClkHz ≤ p.nPower)
    && decide (minCycles 150 p.fClkHz ≤ p.nInitGap) && decide (minCycles 0 p.fClkHz ≤ p.nSetup)

/-- The parameter sets inside this spec: F_CLK_HZ positive (R9), every count at or above its minimum (R9), the pins
distinct (R10). -/
def Params.valid (p : Params) : Bool :=
  decide (0 < p.fClkHz) && p.timesValid && p.pins.valid

/-- The six counts computed from the clock with the default times of R8 (R9). -/
def Params.atClock (p : Params) (fClkHz : Nat) : Params :=
  { p with fClkHz := fClkHz, nEn := minCycles 1 fClkHz, nSettle := minCycles 100 fClkHz,
           nExt := minCycles 2000 fClkHz, nPower := minCycles 15000 fClkHz,
           nInitGap := minCycles 150 fClkHz, nSetup := minCycles 0 fClkHz }

end Sys2Proof
end

