-- ==== Sys2Proof/Machine/Step.lean ====
section
/-! DEFINITION. One step is one cycle (00_scope.md R7, R12). -/

namespace Sys2Proof.Machine

/-- A host write of `w` to CMD: a legal word runs its command, any other is illegal (R66, R67). -/
def commandCycle (w : Word) (s : State) : Host.Outcome State Fault Refusal :=
  match decode w with
  | some i => exec i s
  | none => illegalCommand s

/-- The engine's part of a cycle, by what reaches its port. -/
def portCycle (s : State) : Host.Outcome State Fault Refusal :=
  match portAction s with
  | .reset => .next (resetCycle s)
  | .command w => commandCycle w s
  | .write r w => engineCycle (s.eng.writeReg r w) s
  | .quiet => engineCycle s.eng s

/-- One cycle. A parameter set outside R9 and R10 is refused (U8). -/
def step (s : State) : Host.Outcome State Fault Refusal :=
  if s.params.valid then mapNext (endCycle s) (portCycle s) else .refused .parametersOutsideSpec

/-- `s` with a host write of the word `w` (its low `nbits` bits) to CMD as this cycle's access, and rst_n released
in this cycle: a command comes to run by a host write to CMD (R100); log entries 10 and 11. -/
def State.withFetchWord (s : State) (nbits w : Nat) : State :=
  { s with env := { s.env with
      hostQ := .write (hostAddr s.params .cmd) (BitVec.ofNat 32 (w % 2 ^ nbits)) :: s.env.hostQ
      rstQ := true :: s.env.rstQ.tail } }

end Sys2Proof.Machine
end

