-- ==== Sys2Proof/Machine/HostProgram.lean ====
section
/-! DEFINITION. Host programs (30_encoding.md R73, R74) and the accesses they stand for. -/

namespace Sys2Proof.Machine

/-- A line of a host program: the forms of R73 and the pseudo-instructions of R74. -/
inductive HostLine where
  | sw (r : Reg) (imm : Word)
  | lw (r : Reg)
  | command (i : Instr)
  | idle (n : Nat)
  | waitIdle
  | run (i : Instr)
  | text (chars : List Byte)
  deriving DecidableEq, Repr

/-- Character k of a text, 0 past its end (R74). -/
def textByte (chars : List Byte) (k : Nat) : Byte := chars[k]?.getD 0

/-- TEXTj of a text, the lowest index in the lowest byte (R47, R74). -/
def textWordOf (chars : List Byte) (j : Nat) : Word :=
  textByte chars (4 * j + 3) ++ textByte chars (4 * j + 2) ++ textByte chars (4 * j + 1) ++ textByte chars (4 * j)

/-- `sw CMD, enc` (R73). DESIGN CHOICE: for operands that do not fit their fields, the word `encode` cuts them to;
log entry 21. -/
def commandAccess (p : Params) (i : Instr) : HostOp := .write (hostAddr p .cmd) (encode i)

/-- The accesses of one line, one per cycle (R73, R74). -/
def assembleLine (p : Params) : HostLine → List HostOp
  | .sw r imm => [.write (hostAddr p r) imm]
  | .lw r => [.read (hostAddr p r)]
  | .command i => [commandAccess p i]
  | .idle n => List.replicate n .idle
  | .waitIdle => [.waitIdle]
  | .run i => [commandAccess p i, .waitIdle]
  | .text chars =>
    [ .write (hostAddr p .text0) (textWordOf chars 0), .write (hostAddr p .text1) (textWordOf chars 1),
      .write (hostAddr p .text2) (textWordOf chars 2), .write (hostAddr p .text3) (textWordOf chars 3) ]

/-- The accesses of a program. -/
def assemble (p : Params) (lines : List HostLine) : List HostOp := lines.flatMap (assembleLine p)

/-- `s` with the program as the host's next accesses. -/
def State.withProgram (s : State) (lines : List HostLine) : State :=
  { s with env := { s.env with hostQ := assemble s.params lines ++ s.env.hostQ } }

end Sys2Proof.Machine
end

