-- ==== Sys2Proof/Machine/BusPort.lean ====
section
/-! DEFINITION. The engine's outputs on the bus port (40_command_engine.md R103; 70_reset_and_hazards.md R200) and
the events the bus agent sees. -/

namespace Sys2Proof.Machine

/-- The current micro-list entry ML.entries[IDX] (R102). -/
def Engine.current (e : Engine) : Option Entry := e.ml.entries[e.idx]?

/-- bus_req: "1 exactly in cycles where PHASE = ISSUE" (R103); 0 in reset cycles (R200). -/
def busReq (s : State) : Bool := !s.env.inReset && s.eng.phase == .issue

/-- bus_data: the current entry's byte when bus_req = 1, and 0x00 otherwise (R103). -/
def busData (s : State) : Byte :=
  if busReq s then (s.eng.current.map Entry.byte).getD 0 else 0

/-- bus_addr: the constant I2C_ADDR (R103). -/
def busAddr (s : State) : BitVec 7 := s.params.i2cAddr

/-- The byte the engine issues on the bus in this cycle. -/
def issuedNow (s : State) : Option Byte := if busReq s then some (busData s) else none

/-- The byte whose bus write completes without error in this cycle (R102, R113): a done that the engine samples.
DESIGN CHOICE: a write abandoned by reset never completes here, also when the bus agent ends it later without error;
R126 does not say whether it belongs to S, and U5 leaves the latch any value; log entry 23. -/
def completedNow (s : State) : Option Byte :=
  if !s.env.inReset && s.eng.phase == .wait && s.env.busNow.done && !s.env.busNow.err then
    s.eng.current.map Entry.byte
  else none

end Sys2Proof.Machine
end

