-- ==== Sys2Proof/Machine/Observe.lean ====
section
/-! DEFINITION. What an observer of the bus sees over several cycles, and decode(S) (41_nibble.md R126). No rule of
the engine reads these (R126). -/

namespace Sys2Proof.Machine

/-- The values `f` observes in the next `n` cycles from `s`, oldest first, up to the first stop. -/
def observe (f : State → Option Byte) : Nat → State → List Byte
  | 0, _ => []
  | n + 1, s =>
    (f s).toList ++
      match step s with
      | .next t => observe f n t
      | .fault _ => []
      | .refused _ => []

/-- The bytes issued on the bus in the next `n` cycles. -/
def issuedBytes (n : Nat) (s : State) : List Byte := observe issuedNow n s

/-- The sequence S of R126: the bytes whose bus writes completed without error, in done order. DESIGN CHOICE: a write
abandoned by reset is not in it; log entry 23. -/
def completedBytes (n : Nat) (s : State) : List Byte := observe completedNow n s

/-- The (rs, nibble) pairs the LCD latches from the byte sequence: one at each element with EN = 0 whose
predecessor has EN = 1 (R126). PRESUMED by the spec from general knowledge (G6). -/
def latches (l : PinLayout) : List Byte → List (Bool × Nibble)
  | a :: b :: rest =>
    if pinOf l.en a && !pinOf l.en b then (pinOf l.rs b, dataPins l b) :: latches l (b :: rest)
    else latches l (b :: rest)
  | [_] => []
  | [] => []

/-- Consecutive latches paired high nibble first into bytes (R126). DESIGN CHOICE: a byte carries the RS of its high
nibble, and a last latch without a partner gives no byte; R126 says nothing of either; log entry 22. -/
def pairLatches : List (Bool × Nibble) → List (Bool × Byte)
  | (rs, hi) :: (_, lo) :: rest => (rs, hi ++ lo) :: pairLatches rest
  | [_] => []
  | [] => []

end Sys2Proof.Machine
end

