-- ==== Sys2Proof/Safety.lean ====
section
/-! DEFINITION. The terms claims use: the invariants of the engine (10_state.md R22, R36; 41_nibble.md R125;
43_controller.md R154), what a bus agent's answers to a micro-list look like (40_command_engine.md R103, R104), and
what the tags of a micro-list add up to (R107). -/

namespace Sys2Proof.Machine

/-! ### Tags -/

/-- The STATE a tag sets, if any (R107). -/
def Tag.ctrl? : Tag → Option CtrlState
  | .none => Option.none
  | .state c => some c
  | .cursor _ _ => Option.none
  | .stateCursor c _ _ => some c

/-- The CURSOR a tag sets, if any (R107). -/
def Tag.cursor? : Tag → Option CursorPos
  | .none => Option.none
  | .state _ => Option.none
  | .cursor line col => some ⟨line, col⟩
  | .stateCursor _ line col => some ⟨line, col⟩

/-- STATE after the tags of the entries, in order. -/
def ctrlAfter (entries : List Entry) (c : CtrlState) : CtrlState :=
  entries.foldl (fun c x => x.tag.ctrl?.getD c) c

/-- CURSOR after the tags of the entries, in order. -/
def cursorAfter (entries : List Entry) (k : CursorPos) : CursorPos :=
  entries.foldl (fun k x => x.tag.cursor?.getD k) k

/-- Each STATE the entries' tags set is the one after the STATE before it, starting from `c` (R154). -/
def tagsAscend (c : CtrlState) : List Entry → Bool
  | [] => true
  | x :: rest =>
    match x.tag.ctrl? with
    | Option.none => tagsAscend c rest
    | some c' => decide (c'.code = c.code + 1) && tagsAscend c' rest

/-! ### Invariants -/

/-- A byte as the bit-packer makes them: BL = 1 and RW = 0 (R125). -/
def wiredByte (l : PinLayout) (b : Byte) : Bool := pinOf l.bl b && !pinOf l.rw b

/-- What holds of the engine in every state of a run. R36 (a) and (c) hold by how BUSY and STATE are represented;
R36 (e) is about steps. -/
structure EngineInv (p : Params) (e : Engine) : Prop where
  /-- R36 (b): RESULT = PENDING exactly when BUSY = 1. -/
  pending_iff_busy : e.result = .pending ↔ e.phase ≠ .idle
  /-- R36 (d): WCNT = 0 in IDLE, ISSUE and WAIT. -/
  wcnt_zero : e.phase = .idle ∨ e.phase = .issue ∨ e.phase = .wait → e.wcnt = 0
  /-- A running delay has cycles left. -/
  wcnt_pos : e.phase = .pre ∨ e.phase = .post → 0 < e.wcnt
  /-- R22: IDX names an entry while a command runs. -/
  idx_lt : e.phase ≠ .idle → e.idx < e.ml.entries.length
  /-- R22: "The longest micro-list has 102 entries". -/
  length_le : e.ml.entries.length ≤ 102
  /-- R125: every byte of the micro-list has BL = 1 and RW = 0. -/
  wired : ∀ x ∈ e.ml.entries, wiredByte p.pins x.byte = true
  /-- R154: the STATE tags still to come follow the STATE held. -/
  tags_ascend : e.phase ≠ .idle → tagsAscend e.ctrl (e.ml.entries.drop e.idx) = true
  /-- R145: only INIT's micro-list carries STATE tags. -/
  state_tags : e.phase ≠ .idle → (∃ x ∈ e.ml.entries, x.tag.ctrl? ≠ none) → ∃ c, e.ml = initList p c

/-- The invariant of a state: its engine's, under its own parameters. -/
def State.Inv (s : State) : Prop := EngineInv s.params s.eng

/-- The cycle from `s` to `t` is the one in which a running INIT completes with OK (R105, R140). -/
structure InitCompletes (s t : State) : Prop where
  running : s.eng.phase ≠ .idle
  isInit : ∃ c, s.eng.ml = initList s.params c
  ended : t.eng.phase = .idle
  ok : t.eng.result = .ok

/-- In the `n` cycles from `s` no INIT completes with OK. -/
def NoInitCompletes (n : Nat) (s : State) : Prop :=
  ∀ k < n, ∀ u v : State, Host.Core.run Sys2Proof.core k s = .next u → step u = .next v → ¬ InitCompletes u v

/-! ### The host's access and the reset pin -/

/-- In this cycle rst_n = 1 and the host writes `w` at an address that reaches the register `r` (R42, R46); `q` are
its later accesses. -/
def HostWrites (s : State) (r : Reg) (w : Word) (q : List HostOp) : Prop :=
  s.env.inReset = false ∧ ∃ addr, regOfAddr s.params addr = some r ∧ s.env.hostQ = .write addr w :: q

/-- rst_n stays 1 in the next `n` cycles. -/
def noResetFor (n : Nat) (s : State) : Prop := ∀ r ∈ s.env.rstQ.take n, r = true

/-! ### The bus agent's answers -/

/-- The bus agent's wires over the cycles of the entries, every write succeeding, with the latencies listed: for
each entry one ISSUE cycle, WAIT cycles without done, the done cycle, and as many POST cycles as its post-delay.
The latency u - t of a write is one more than the number of its WAIT cycles without done (R103, R104). The wires of
ISSUE and POST cycles, and bus_err without bus_done, are arbitrary (R113, U4). -/
inductive Answered : List Entry → List Nat → List BusIn → Prop where
  | nil : Answered [] [] []
  | cons (x : Entry) (entries : List Entry) (latencies : List Nat) (issue ok : BusIn) (waits posts rest : List BusIn)
      (hwaits : ∀ w ∈ waits, w.done = false) (hdone : ok.done = true) (herr : ok.err = false)
      (hposts : posts.length = x.delay) (hrest : Answered entries latencies rest) :
      Answered (x :: entries) ((waits.length + 1) :: latencies) (issue :: (waits ++ ok :: (posts ++ rest)))

/-- The sum of the post-delays of the entries (R108). -/
def totalDelay (entries : List Entry) : Nat := (entries.map Entry.delay).sum

/-- The cycles the entries take with the latencies listed: m + Σ L_i + Σ d_i (R108). -/
def cyclesOf (entries : List Entry) (latencies : List Nat) : Nat :=
  entries.length + latencies.sum + totalDelay entries

/-- The host writes the word of `i` to CMD in this cycle, the engine accepts it, and the bus agent answers every
write of its micro-list with the latencies listed; rst_n stays 1 until the command completes (R104). The host's
later accesses `q` are arbitrary. -/
structure AcceptedRun (s : State) (i : Instr) (q : List HostOp) (latencies : List Nat)
    (first : BusIn) (prePins pins rest : List BusIn) : Prop where
  valid : s.params.valid = true
  inv : s.Inv
  idle : s.eng.phase = .idle
  wf : i.wf = true
  accepted : checkInstr i s.eng.ctrl = .ok
  host : HostWrites s .cmd (encode i) q
  bus : s.env.busQ = first :: (prePins ++ (pins ++ rest))
  preLength : prePins.length = (build s.params s.eng i).pre
  answered : Answered (build s.params s.eng i).entries latencies pins
  noReset : noResetFor (1 + prePins.length + pins.length) s

/-- The same for a command whose write with index `k` fails: the writes before it are answered, then come the ISSUE
cycle of write `k`, `waits` without done, and a done with bus_err = 1 (R106). -/
structure FailingRun (s : State) (i : Instr) (q : List HostOp) (k : Nat) (latencies : List Nat)
    (first : BusIn) (prePins pins : List BusIn) (issue bad : BusIn) (waits rest : List BusIn) : Prop where
  valid : s.params.valid = true
  inv : s.Inv
  idle : s.eng.phase = .idle
  wf : i.wf = true
  accepted : checkInstr i s.eng.ctrl = .ok
  host : HostWrites s .cmd (encode i) q
  inList : k < (build s.params s.eng i).entries.length
  bus : s.env.busQ = first :: (prePins ++ (pins ++ (issue :: (waits ++ bad :: rest))))
  preLength : prePins.length = (build s.params s.eng i).pre
  answered : Answered ((build s.params s.eng i).entries.take k) latencies pins
  notDone : ∀ w ∈ waits, w.done = false
  done : bad.done = true
  failed : bad.err = true
  noReset : noResetFor (1 + prePins.length + pins.length + (waits.length + 2)) s

end Sys2Proof.Machine
end

