-- ==== Sys2Proof/Certificates/Slice0/Obligations.lean ====
section
/-! DEFINITION. The statements for the provers. OBLIGATIONS.json lists them with the rules they rest on. -/

open Sys2Proof Sys2Proof.Machine

/-! ### Encodings (30_encoding.md) -/

/-- R62 to R66, R71: the decoder reads back every operand of every well-formed command. -/
def Obligations.DecodeEncodeAgree : Prop :=
  ∀ i : Instr, i.wf = true → decode (encode i) = some i

/-- R62 to R68: a word has at most one meaning, and it is the word of that meaning. -/
def Obligations.EncodeDecodeAgree : Prop :=
  ∀ (w : Word) (i : Instr), decode w = some i → i.wf = true ∧ encode i = w

/-- R66: "a word is legal exactly when it matches one row below under its mask"; the rows are disjoint, and a legal
word selects the command of its row. -/
def Obligations.LegalWordsAreTheRows : Prop :=
  let rows : List (Op × Word × Word) :=
    [ (.init, 0x00001000#32, 0xFFFFFFFF#32), (.clear, 0x00002000#32, 0xFFFFFFFF#32), (.setCursor, 0x00003000#32, 0xFFFFFC00#32),
      (.writeText, 0x00004000#32, 0xFFFFFC00#32), (.writeByte, 0x00005000#32, 0xFFFFFE00#32),
      (.writeNibble, 0x00006000#32, 0xFFFFFEF0#32) ]
  (∀ w : Word, (decode w).isSome = true ↔ ∃ r ∈ rows, w &&& r.2.2 = r.2.1)
  ∧ (∀ (w : Word) (i : Instr), decode w = some i → ∃ r ∈ rows, r.1 = i.op ∧ w &&& r.2.2 = r.2.1)
  ∧ rows.Pairwise (fun a b => ∀ w : Word, ¬ (w &&& a.2.2 = a.2.1 ∧ w &&& b.2.2 = b.2.1))

/-- R67, R68, R171: which words are illegal, field by field, and that an illegal word written to CMD while idle
records ILLEGAL_COMMAND and changes nothing else. -/
def Obligations.IllegalWordsOnlyRecordTheCode : Prop :=
  (∀ w : Word, decode w = none ↔
    (opField w = 0 ∨ 7 ≤ (opField w).toNat ∨ w.extractLsb' 16 16 ≠ 0
      ∨ ((opField w = 1 ∨ opField w = 2) ∧ w.extractLsb' 0 12 ≠ 0)
      ∨ ((opField w = 3 ∨ opField w = 4) ∧ w.extractLsb' 10 2 ≠ 0)
      ∨ (opField w = 5 ∧ w.extractLsb' 9 3 ≠ 0)
      ∨ (opField w = 6 ∧ (w.extractLsb' 9 3 ≠ 0 ∨ w.extractLsb' 4 4 ≠ 0))))
  ∧ ∀ (s : State) (w : Word) (q : List HostOp), s.params.valid = true → s.eng.phase = .idle →
      HostWrites s .cmd w q → decode w = none →
      step s = .next (endCycle s { s with eng := { s.eng with result := .illegalCommand } })

/-- Words written out from the formats of R62 to R65 decode to the commands they stand for. -/
def Obligations.SampleWordsDecode : Prop :=
  decode 0x00001000#32 = some .init ∧ decode 0x00002000#32 = some .clear
  ∧ decode 0x00003107#32 = some (.setCursor 1 7) ∧ decode 0x000030C8#32 = some (.setCursor 0 200)
  ∧ decode 0x00004102#32 = some (.writeText 1 2) ∧ decode 0x00005141#32 = some (.writeByte true 0x41#8)
  ∧ decode 0x00006003#32 = some (.writeNibble false 0x3#4) ∧ decode 0x00000000#32 = none ∧ decode 0x00006010#32 = none

/-- R176: check(w, STATE) returns the first code that applies, in the order of the rule. -/
def Obligations.CheckPriority : Prop :=
  ∀ (w : Word) (c : CtrlState),
    check w c =
      if decode w = none then .illegalCommand
      else if (opField w = 2 ∨ opField w = 3 ∨ opField w = 4) ∧ c ≠ .ready then .notInitialized
      else if (opField w = 3 ∨ opField w = 4) ∧ 1 < (w.extractLsb' 8 2).toNat then .rangeError
      else .ok

/-! ### The bit-packer and the micro-lists (41_nibble.md, 42_byte.md, 43_controller.md) -/

/-- R121: under every layout with distinct pins, each signal of pack(v, rs, en) stands at its own position, and the
default layout gives the closed form. -/
def Obligations.PackPlacesEachSignal : Prop :=
  (∀ (l : PinLayout) (v : Nibble) (rs en : Bool), l.valid = true →
    pinOf l.bl (pack l v rs en) = true ∧ pinOf l.rs (pack l v rs en) = rs ∧ pinOf l.en (pack l v rs en) = en
    ∧ pinOf l.rw (pack l v rs en) = false ∧ pinOf l.d0 (pack l v rs en) = v.getLsbD 0
    ∧ pinOf l.d1 (pack l v rs en) = v.getLsbD 1 ∧ pinOf l.d2 (pack l v rs en) = v.getLsbD 2
    ∧ pinOf l.d3 (pack l v rs en) = v.getLsbD 3)
  ∧ ∀ (v : Nibble) (rs en : Bool),
      pack Config.defaultPins v rs en =
        (v.setWidth 8 <<< 4) ||| 0x08#8 ||| ((BitVec.ofBool en).setWidth 8 <<< 2) ||| (BitVec.ofBool rs).setWidth 8

/-- R122: one nibble is three writes that differ in EN only, with N_SETUP, N_EN and dpost after them; dpost is
N_SETTLE but for the first reset nibble of INIT and the last nibble of a CLEAR or HOME byte. -/
def Obligations.NibbleIsOneEnablePulse : Prop :=
  ∀ (p : Params) (v : Nibble) (rs : Bool) (dpost : Nat) (tag : Tag), p.pins.valid = true →
    (nib p v rs dpost tag =
      [ ⟨pack p.pins v rs false, p.nSetup, .none⟩, ⟨pack p.pins v rs true, p.nEn, .none⟩,
        ⟨pack p.pins v rs false, dpost, tag⟩ ])
    ∧ pack p.pins v rs true = pack p.pins v rs false ||| (1#8 <<< p.pins.en.val)
    ∧ pinOf p.pins.en (pack p.pins v rs false) = false
    ∧ nibList p rs v = ⟨0, nib p v rs p.nSettle .none⟩
    ∧ (∀ c, (initList p c).entries.take 3 = nib p 0x3#4 false (max p.nSettle p.nInitGap) .none)
    ∧ ∀ b : Byte, b = 0x01#8 ∨ b = 0x02#8 →
        (byteEntries p b false tag).drop 3 = nib p (b.extractLsb' 0 4) false (p.nSettle + p.nExt) tag

/-- R130, R131: one byte is its high nibble, then its low nibble, whose wait is longer by N_EXT exactly for the
command bytes 0x01 and 0x02. -/
def Obligations.ByteIsTwoNibbles : Prop :=
  ∀ (p : Params) (b : Byte) (rs : Bool) (tag : Tag),
    byteEntries p b rs tag =
      nib p (BitVec.ofNat 4 (b.toNat / 16)) rs p.nSettle .none
        ++ nib p (BitVec.ofNat 4 (b.toNat % 16)) rs
            (p.nSettle + if rs = false ∧ (b.toNat = 1 ∨ b.toNat = 2) then p.nExt else 0) tag

/-- R150, R33, R47: the 16 characters of WRITE_TEXT: TB[k] below min(LEN, 16), PAD_CHAR from there on. -/
def Obligations.TextIsCutAndPadded : Prop :=
  ∀ (e : Engine) (len k : Nat), k < 16 →
    (e.textChars len).length = 16
    ∧ (e.textChars len)[k]? = some (if k < min len 16 then e.tb k else 0x20#8)
    ∧ (e.tb k).toNat = (([e.text0, e.text1, e.text2, e.text3][k / 4]?.getD 0).toNat / 2 ^ (8 * (k % 4))) % 256

/-- R126: the latched (rs, nibble) pairs of any sequence of nibbles are those nibbles, one latch each, under every
layout with distinct pins. -/
def Obligations.EachNibbleLatchesOnce : Prop :=
  ∀ (p : Params) (ns : List (Nibble × Bool × Nat × Tag)), p.pins.valid = true →
    latches p.pins ((ns.flatMap (fun n => nib p n.1 n.2.1 n.2.2.1 n.2.2.2)).map Entry.byte)
      = ns.map (fun n => (n.2.1, n.1))

/-- L1-3 (R126, R140): INIT's bytes decode to the nibbles 3, 3, 3, 2 and then the bytes 0x28, DCTL, 0x06, 0x01,
0x80, all with RS = 0. -/
def Obligations.InitDecodesToItsSequence : Prop :=
  ∀ (p : Params) (c : DisplayConfig), p.pins.valid = true →
    let seen := latches p.pins ((initList p c).entries.map Entry.byte)
    seen.take 4 = [(false, 0x3#4), (false, 0x3#4), (false, 0x3#4), (false, 0x2#4)]
    ∧ pairLatches (seen.drop 4) =
        [(false, 0x28#8), (false, displayControl c), (false, 0x06#8), (false, 0x01#8), (false, 0x80#8)]

/-- R210: entries, pre-delay and summed post-delays of each command's micro-list. -/
def Obligations.MicroListTotals : Prop :=
  ∀ (p : Params) (e : Engine) (line col len : Nat) (rs : Bool) (b : Byte) (v : Nibble), line < 2 →
    let s := p.nSetup + p.nEn + p.nSettle
    let m (i : Instr) := (build p e i).entries.length
    let d (i : Instr) := totalDelay (build p e i).entries
    let pre (i : Instr) := (build p e i).pre
    (m (.writeNibble rs v) = 3 ∧ pre (.writeNibble rs v) = 0 ∧ d (.writeNibble rs v) = s)
    ∧ (m (.writeByte rs b) = 6 ∧ pre (.writeByte rs b) = 0
        ∧ d (.writeByte rs b) = 2 * s + if rs = false ∧ (b = 0x01#8 ∨ b = 0x02#8) then p.nExt else 0)
    ∧ (m (.setCursor line col) = 6 ∧ pre (.setCursor line col) = 0 ∧ d (.setCursor line col) = 2 * s)
    ∧ (m .clear = 6 ∧ pre .clear = 0 ∧ d .clear = 2 * s + p.nExt)
    ∧ (m (.writeText line len) = 102 ∧ pre (.writeText line len) = 0 ∧ d (.writeText line len) = 34 * s)
    ∧ (m .init = 42 ∧ pre .init = p.nPower ∧ d .init = 14 * s + (p.nInitGap - p.nSettle) + p.nExt)

/-! ### What each command does when the host writes it (R100, R109 and the command's own rule) -/

/-- R124, R100: WRITE_NIBBLE is accepted in every STATE. -/
def Obligations.WriteNibbleIsAccepted : Prop :=
  ∀ (s : State) (rs : Bool) (v : Nibble), s.eng.phase = .idle →
    exec (.writeNibble rs v) s = .next { s with eng := { s.eng with
      phase := .issue, idx := 0, result := .pending, fault := { s.eng.fault with valid := false }
      ml := ⟨0, [ ⟨pack s.params.pins v rs false, s.params.nSetup, .none⟩,
                  ⟨pack s.params.pins v rs true, s.params.nEn, .none⟩,
                  ⟨pack s.params.pins v rs false, s.params.nSettle, .none⟩ ]⟩ } }

/-- R132, R100: WRITE_BYTE is accepted in every STATE. -/
def Obligations.WriteByteIsAccepted : Prop :=
  ∀ (s : State) (rs : Bool) (b : Byte), s.eng.phase = .idle →
    exec (.writeByte rs b) s = .next { s with eng := { s.eng with
      phase := .issue, idx := 0, result := .pending, fault := { s.eng.fault with valid := false }
      ml := ⟨0, nib s.params (b.extractLsb' 4 4) rs s.params.nSettle .none
                  ++ nib s.params (b.extractLsb' 0 4) rs
                      (s.params.nSettle
                        + if rs = false ∧ (b = 0x01#8 ∨ b = 0x02#8) then s.params.nExt else 0) .none⟩ } }

/-- R147, R100: SET_CURSOR in Ready with LINE 0 or 1, the column clamped to 15. For columns of 256 or more,
which no word carries, this is the model's choice: log entry 19. -/
def Obligations.SetCursorIsAccepted : Prop :=
  ∀ (s : State) (line col : Nat), s.eng.phase = .idle → s.eng.ctrl = .ready → line < 2 →
    exec (.setCursor line col) s = .next { s with eng := { s.eng with
      phase := .issue, idx := 0, result := .pending, fault := { s.eng.fault with valid := false }
      ml := ⟨0, byteEntries s.params (BitVec.ofNat 8 (0x80 + 0x40 * line + min col 15)) false
                  (.cursor (BitVec.ofNat 1 line) (BitVec.ofNat 4 (min col 15)))⟩ } }

/-- R149, R150, R100: WRITE_TEXT in Ready with LINE 0 or 1. For lengths of 256 or more, which no word carries, this
is the model's choice: log entry 19. -/
def Obligations.WriteTextIsAccepted : Prop :=
  ∀ (s : State) (line len : Nat), s.eng.phase = .idle → s.eng.ctrl = .ready → line < 2 →
    exec (.writeText line len) s = .next { s with eng := { s.eng with
      phase := .issue, idx := 0, result := .pending, fault := { s.eng.fault with valid := false }
      ml := ⟨0, byteEntries s.params (BitVec.ofNat 8 (0x80 + 0x40 * line)) false (.cursor (BitVec.ofNat 1 line) 0)
                  ++ (List.range 16).flatMap (fun k =>
                      byteEntries s.params (if k < min len 16 then s.eng.tb k else 0x20#8) true .none)⟩ } }

/-- R151, R100: CLEAR in Ready. -/
def Obligations.ClearIsAccepted : Prop :=
  ∀ s : State, s.eng.phase = .idle → s.eng.ctrl = .ready →
    exec .clear s = .next { s with eng := { s.eng with
      phase := .issue, idx := 0, result := .pending, fault := { s.eng.fault with valid := false }
      ml := ⟨0, nib s.params 0x0#4 false s.params.nSettle .none
                  ++ nib s.params 0x1#4 false (s.params.nSettle + s.params.nExt) (.cursor 0 0)⟩ } }

/-- R140, R141, R100: INIT is accepted in every STATE, sets STATE to 0, and starts with the N_POWER delay. -/
def Obligations.InitIsAccepted : Prop :=
  ∀ s : State, s.eng.phase = .idle → s.params.valid = true →
    exec .init s = .next { s with eng := { s.eng with
      phase := .pre, wcnt := s.params.nPower, idx := 0, result := .pending, ctrl := .uninitialized
      fault := { s.eng.fault with valid := false }
      ml := ⟨s.params.nPower,
        nib s.params 0x3#4 false (max s.params.nSettle s.params.nInitGap) .none
          ++ nib s.params 0x3#4 false s.params.nSettle .none
          ++ nib s.params 0x3#4 false s.params.nSettle .none
          ++ nib s.params 0x2#4 false s.params.nSettle (.state .resetting)
          ++ byteEntries s.params 0x28#8 false (.state .functionSet)
          ++ byteEntries s.params
              (BitVec.ofNat 8 (0x0C + 2 * s.eng.config.cursorOn.toNat + s.eng.config.blink.toNat)) false
              (.state .displayConfigured)
          ++ byteEntries s.params 0x06#8 false (.state .entryModeSet)
          ++ byteEntries s.params 0x01#8 false .none
          ++ byteEntries s.params 0x80#8 false (.stateCursor .ready 0 0)⟩ } }

/-- R172, R152: outside Ready the three display commands, at every value of their fields, record NOT_INITIALIZED, change nothing else and request
nothing on the bus. -/
def Obligations.DisplayCommandsNeedReady : Prop :=
  ∀ (s : State) (i : Instr), s.eng.phase = .idle → s.eng.ctrl ≠ .ready →
    (i = .clear ∨ (∃ line col, i = .setCursor line col) ∨ (∃ line len, i = .writeText line len)) → i.wf = true →
    exec i s = .next { s with eng := { s.eng with result := .notInitialized } }
    ∧ busReq s = false ∧ busReq { s with eng := { s.eng with result := .notInitialized } } = false

/-- R173: in Ready, LINE 2 or 3 records RANGE_ERROR and changes nothing else, at every value of the other field. -/
def Obligations.LineOutOfRangeIsRefused : Prop :=
  ∀ (s : State) (line arg : Nat), s.eng.phase = .idle → s.eng.ctrl = .ready → 1 < line → line < 4 → arg < 256 →
    exec (.setCursor line arg) s = .next { s with eng := { s.eng with result := .rangeError } }
    ∧ exec (.writeText line arg) s = .next { s with eng := { s.eng with result := .rangeError } }

/-- R56, R100: a command written while BUSY = 1 is dropped: OVR is set and the running command goes on. -/
def Obligations.CommandWhileBusyIsDropped : Prop :=
  ∀ (i : Instr) (s : State), s.eng.busy = true →
    exec i s = (match ({ s.eng with ovr := true } : Engine).cycle s.env.busNow with
      | .ok e => .next { s with eng := e }
      | .error r => .fault r)

/-- The frame of the six commands while idle: only STATUS and FAULT can read differently, FAULT in bit 16 only, and
neither the parameters nor the environment change. -/
def Obligations.CommandFrameWhileIdle : Prop :=
  ∀ (i : Instr) (s t : State), s.eng.phase = .idle → exec i s = .next t →
    t.params = s.params ∧ t.env = s.env
    ∧ (∀ r : Reg, r ≠ .status → r ≠ .fault → t.eng.readReg r = s.eng.readReg r)
    ∧ t.eng.fault.byte = s.eng.fault.byte ∧ t.eng.fault.idx = s.eng.fault.idx ∧ t.eng.ovr = s.eng.ovr
    ∧ (i ≠ .init → t.eng.ctrl = s.eng.ctrl)

/-- R100: acceptance or refusal of a word written to CMD while idle, as one step, and the drop while busy (R56). -/
def Obligations.WordAtCmdIsAcceptedOrRefused : Prop :=
  ∀ (s : State) (w : Word) (q : List HostOp), s.params.valid = true → HostWrites s .cmd w q →
    (s.eng.busy = true → step s = mapNext (endCycle s) (engineCycle { s.eng with ovr := true } s))
    ∧ (s.eng.busy = false → check w s.eng.ctrl ≠ .ok →
      step s = .next (endCycle s { s with eng := { s.eng with result := check w s.eng.ctrl } }))
    ∧ (s.eng.busy = false → check w s.eng.ctrl = .ok → ∃ i, decode w = some i ∧
        step s = .next (endCycle s { s with eng := { s.eng with
          ml := build s.params s.eng i, idx := 0, result := .pending
          fault := { s.eng.fault with valid := false }
          ctrl := if opField w = 1 then .uninitialized else s.eng.ctrl
          wcnt := if 0 < (build s.params s.eng i).pre then (build s.params s.eng i).pre else s.eng.wcnt
          phase := if 0 < (build s.params s.eng i).pre then .pre else .issue } }))

/-- R13, R66: when the word the host writes to CMD decodes to `i`, the step is `exec i`, and the environment moves
on by one cycle. -/
def Obligations.StepRunsTheDecodedCommand : Prop :=
  ∀ (s : State) (w : Word) (i : Instr) (q : List HostOp),
    s.params.valid = true → HostWrites s .cmd w q → decode w = some i →
    step s = mapNext (fun t => { t with env :=
      { cycle := s.env.cycle + 1, hostQ := q, rstQ := s.env.rstQ.tail, busQ := s.env.busQ.tail
        rdata := s.env.rdata } }) (exec i s)

/-! ### The host register port (20_memory.md) -/

/-- R46 with R25 to R33, R41: what a host read at any address that reaches a register returns, as a number. -/
def Obligations.RegisterReads : Prop :=
  ∀ (s : State) (r : Reg) (addr : Nat) (q : List HostOp), s.params.valid = true → s.Inv → s.env.inReset = false →
    regOfAddr s.params addr = some r → s.env.hostQ = .read addr :: q →
    ∃ t, step s = .next t ∧ t.env.hostQ = q ∧ t.env.rdata.toNat =
      match r with
      | .cmd => 0
      | .status => s.eng.busy.toNat + 2 * s.eng.ctrl.code + 16 * s.eng.result.code + 128 * s.eng.ovr.toNat
      | .config => s.eng.config.blink.toNat + 2 * s.eng.config.cursorOn.toNat
      | .cursor => s.eng.cursor.col.toNat + 16 * s.eng.cursor.line.toNat
      | .shadow => s.eng.shadow.last.toNat + 256 * s.eng.shadow.valid.toNat
      | .fault => s.eng.fault.byte.toNat + 256 * s.eng.fault.idx.toNat + 65536 * s.eng.fault.valid.toNat
      | .text0 => s.eng.text0.toNat
      | .text1 => s.eng.text1.toNat
      | .text2 => s.eng.text2.toNat
      | .text3 => s.eng.text3.toNat

/-- R44: a host read has no side effect: the engine does in that cycle what it does without an access. -/
def Obligations.ReadsHaveNoSideEffect : Prop :=
  ∀ (s t : State) (addr : Nat) (q : List HostOp), s.env.hostQ = .read addr :: q → step s = .next t →
    ∃ u, step { s with env := { s.env with hostQ := .idle :: q } } = .next u
      ∧ t = { u with env := { u.env with rdata := t.env.rdata } }

/-- R42, R45, R46: which register each address of the window reaches: the word at `addr & 0x3C`, or none. -/
def Obligations.WindowAddresses : Prop :=
  ∀ (p : Params) (off : Nat), off < 64 →
    regOfAddr p (p.hostBase + off) =
      if off / 4 = 0 then some .cmd else if off / 4 = 1 then some .status else if off / 4 = 2 then some .config
      else if off / 4 = 3 then some .cursor else if off / 4 = 4 then some .shadow
      else if off / 4 = 5 then some .fault else if off / 4 = 8 then some .text0
      else if off / 4 = 9 then some .text1 else if off / 4 = 10 then some .text2
      else if off / 4 = 11 then some .text3 else none

/-- R45: a read of a reserved offset returns 0 and a write to one is ignored, OVR included. -/
def Obligations.ReservedOffsets : Prop :=
  ∀ (s : State) (off : Nat) (q : List HostOp), s.params.valid = true → s.Inv → s.env.inReset = false →
    (off / 4 = 6 ∨ off / 4 = 7 ∨ (48 ≤ off ∧ off < 64)) →
    (s.env.hostQ = .read (s.params.hostBase + off) :: q → ∃ t, step s = .next t ∧ t.env.rdata = 0)
    ∧ ∀ w : Word, s.env.hostQ = .write (s.params.hostBase + off) w :: q →
        step s = step { s with env := { s.env with hostQ := .idle :: q } }
        ∧ ∃ t, step s = .next t ∧ t.eng.ovr = s.eng.ovr

/-- R56: while BUSY, a write to CMD, CONFIG or TEXT0 to TEXT3 is dropped and sets OVR, and the running command goes
on as it would; a write to STATUS is not dropped. -/
def Obligations.WritesWhileBusyAreDropped : Prop :=
  ∀ (s : State) (r : Reg) (w : Word) (q : List HostOp),
    s.params.valid = true → s.eng.busy = true → HostWrites s r w q →
    (r = .cmd ∨ r = .config ∨ r = .text0 ∨ r = .text1 ∨ r = .text2 ∨ r = .text3 →
      step s = mapNext (endCycle s) (engineCycle { s.eng with ovr := true } s)
      ∧ ∀ t, step s = .next t → t.eng.ovr = true ∧ t.eng.config = s.eng.config ∧ t.eng.text0 = s.eng.text0
          ∧ t.eng.text1 = s.eng.text1 ∧ t.eng.text2 = s.eng.text2 ∧ t.eng.text3 = s.eng.text3
          ∧ t.eng.ml = s.eng.ml)
    ∧ (r = .status → ∀ t, step s = .next t → t.eng.ovr = (s.eng.ovr && !w.getLsbD 7))

/-- R44: while idle, a write to CONFIG or TEXTj stores, one to STATUS clears OVR when wdata[7] = 1, and one to
CURSOR, SHADOW or FAULT is ignored. -/
def Obligations.WritesWhileIdleStore : Prop :=
  ∀ (s : State) (r : Reg) (w : Word) (q : List HostOp),
    s.params.valid = true → s.eng.phase = .idle → HostWrites s r w q → r ≠ .cmd →
    step s = .next (endCycle s { s with eng :=
      match r with
      | .cmd => s.eng
      | .status => { s.eng with ovr := s.eng.ovr && !w.getLsbD 7 }
      | .config => { s.eng with config := ⟨w.getLsbD 0, w.getLsbD 1⟩ }
      | .cursor => s.eng
      | .shadow => s.eng
      | .fault => s.eng
      | .text0 => { s.eng with text0 := w }
      | .text1 => { s.eng with text1 := w }
      | .text2 => { s.eng with text2 := w }
      | .text3 => { s.eng with text3 := w } })

/-- R28: OVR is set by a dropped write, cleared by a write to STATUS with wdata[7] = 1, and changed by nothing else
but reset. -/
def Obligations.OverrunFlagRule : Prop :=
  ∀ s t : State, step s = .next t → s.env.inReset = false →
    t.eng.ovr =
      match portAction s with
      | .command _ => s.eng.busy || s.eng.ovr
      | .write .status w => s.eng.ovr && !w.getLsbD 7
      | .write .config _ => s.eng.busy || s.eng.ovr
      | .write .text0 _ => s.eng.busy || s.eng.ovr
      | .write .text1 _ => s.eng.busy || s.eng.ovr
      | .write .text2 _ => s.eng.busy || s.eng.ovr
      | .write .text3 _ => s.eng.busy || s.eng.ovr
      | _ => s.eng.ovr

/-- R74: `wait_idle` reads STATUS in each cycle and ends with the first read whose BUSY bit is 0. -/
def Obligations.WaitIdleRepeatsWhileBusy : Prop :=
  ∀ (s : State) (q : List HostOp), s.params.valid = true → s.Inv → s.env.inReset = false →
    s.env.hostQ = .waitIdle :: q →
    ∃ t, step s = .next t ∧ t.env.rdata = s.eng.statusWord
      ∧ t.env.hostQ = if s.eng.busy then .waitIdle :: q else q

/-! ### Reset (70_reset_and_hazards.md) -/

/-- R200, R201: a cycle with rst_n = 0 puts every register at its reset value, whatever the engine and the host were
doing, and requests nothing on the bus. -/
def Obligations.ResetCycleRestoresEverything : Prop :=
  ∀ s : State, s.params.valid = true → s.env.inReset = true →
    busReq s = false
    ∧ step s = .next (endCycle s { s with eng :=
        { phase := .idle, idx := 0, ml := ⟨0, []⟩, wcnt := 0, ctrl := .uninitialized, result := .none, ovr := false
          config := ⟨false, false⟩, cursor := ⟨0, 0⟩, shadow := ⟨0, false⟩, fault := ⟨0, 0, false⟩
          text0 := 0, text1 := 0, text2 := 0, text3 := 0 } })

/-- R37: what the registers read after reset, for every parameter set. -/
def Obligations.ResetValues : Prop :=
  ∀ p : Params,
    let e := (State.resetWith p).eng
    e.phase = .idle ∧ e.idx = 0 ∧ e.ml = ⟨0, []⟩ ∧ e.wcnt = 0 ∧ e.readReg .status = 0x60#32 ∧ e.readReg .config = 0
    ∧ e.readReg .cursor = 0 ∧ e.readReg .shadow = 0 ∧ e.readReg .fault = 0 ∧ e.readReg .text0 = 0
    ∧ e.readReg .text1 = 0 ∧ e.readReg .text2 = 0 ∧ e.readReg .text3 = 0
    ∧ busReq (State.resetWith p) = false

/-- R202: an idle engine stays idle and requests nothing until a word is written to CMD. -/
def Obligations.IdleUntilCommanded : Prop :=
  ∀ s t : State, s.eng.phase = .idle → step s = .next t → (∀ w, portAction s ≠ .command w) →
    t.eng.phase = .idle ∧ busReq s = false ∧ busReq t = false

/-! ### The sequencer (40_command_engine.md) -/

/-- R102: one cycle of the sequencer, phase by phase, in a cycle in which the host writes nothing. -/
def Obligations.SequencerCycle : Prop :=
  ∀ s : State, s.params.valid = true → portAction s = .quiet →
    (s.eng.phase = .idle → step s = .next (endCycle s s))
    ∧ (s.eng.phase = .pre → s.eng.wcnt = 1 →
        step s = .next (endCycle s { s with eng := { s.eng with wcnt := 0, phase := .issue } }))
    ∧ (s.eng.phase = .pre → 1 < s.eng.wcnt →
        step s = .next (endCycle s { s with eng := { s.eng with wcnt := s.eng.wcnt - 1 } }))
    ∧ ∀ x : Entry, s.eng.ml.entries[s.eng.idx]? = some x →
      (s.eng.phase = .issue →
        busReq s = true ∧ busData s = x.byte
        ∧ step s = .next (endCycle s { s with eng := { s.eng with phase := .wait } }))
      ∧ (s.eng.phase = .wait → s.env.busNow.done = true → s.env.busNow.err = true →
        step s = .next (endCycle s { s with eng := s.eng.abort x.byte }))
      ∧ (s.eng.phase = .wait → s.env.busNow.done = true → s.env.busNow.err = false → x.delay = 0 →
        step s = .next (endCycle s { s with eng := { s.eng with shadow := ⟨x.byte, true⟩ }.finish x.tag }))
      ∧ (s.eng.phase = .wait → s.env.busNow.done = true → s.env.busNow.err = false → 0 < x.delay →
        step s = .next (endCycle s { s with eng :=
          { s.eng with shadow := ⟨x.byte, true⟩, wcnt := x.delay, phase := .post } }))
      ∧ (s.eng.phase = .wait → s.env.busNow.done = false → step s = .next (endCycle s s))
      ∧ (s.eng.phase = .post → s.eng.wcnt = 1 →
        step s = .next (endCycle s { s with eng := { s.eng with wcnt := 0 }.finish x.tag }))
      ∧ (s.eng.phase = .post → 1 < s.eng.wcnt →
        step s = .next (endCycle s { s with eng := { s.eng with wcnt := s.eng.wcnt - 1 } }))

/-- R105, R107 and finish() of R102: the tag is applied, and the last entry ends the command with OK. -/
def Obligations.FinishAppliesTheTag : Prop :=
  ∀ (e : Engine) (t : Tag), e.idx < e.ml.entries.length →
    e.finish t =
      let c := match t with
        | .none => e.ctrl
        | .state c => c
        | .cursor _ _ => e.ctrl
        | .stateCursor c _ _ => c
      let k := match t with
        | .none => e.cursor
        | .state _ => e.cursor
        | .cursor line col => ⟨line, col⟩
        | .stateCursor _ line col => ⟨line, col⟩
      if e.idx = e.ml.entries.length - 1 then
        { e with ctrl := c, cursor := k, phase := .idle, result := .ok }
      else { e with ctrl := c, cursor := k, phase := .issue, idx := e.idx + 1 }

/-- R106, R174: a done with bus_err = 1 in WAIT aborts the command, whatever the host does in that cycle. -/
def Obligations.TransportErrorAborts : Prop :=
  ∀ (s : State) (x : Entry), s.params.valid = true → s.env.inReset = false → s.eng.phase = .wait →
    s.eng.ml.entries[s.eng.idx]? = some x → s.env.busNow.done = true → s.env.busNow.err = true →
    ∃ t, step s = .next t ∧ t.eng = { s.eng with
      fault := ⟨x.byte, BitVec.ofNat 8 s.eng.idx, true⟩, shadow := { s.eng.shadow with valid := false }
      ctrl := .uninitialized, result := .transportError, phase := .idle, wcnt := 0, ovr := t.eng.ovr }

/-- R113, U4: outside WAIT the step does not depend on the bus agent's wires, and in WAIT bus_err counts only with
bus_done. -/
def Obligations.DoneIsSampledOnlyInWait : Prop :=
  ∀ (s : State) (b b' : BusIn) (q : List BusIn),
    (s.eng.phase ≠ .wait ∨ (b.done = false ∧ b'.done = false)) →
    step { s with env := { s.env with busQ := b :: q } } = step { s with env := { s.env with busQ := b' :: q } }

/-- R103: the bus port's outputs. -/
def Obligations.BusPortOutputs : Prop :=
  ∀ s : State,
    (busReq s = true ↔ s.eng.phase = .issue ∧ s.env.inReset = false)
    ∧ (∀ x, busReq s = true → s.eng.ml.entries[s.eng.idx]? = some x → busData s = x.byte)
    ∧ (busReq s = false → busData s = 0x00#8) ∧ busAddr s = s.params.i2cAddr

/-- R111: while the bus agent withholds bus_done, the engine waits, for any number of cycles. -/
def Obligations.NoTimeoutInWait : Prop :=
  ∀ (s : State) (pins rest : List BusIn), s.params.valid = true → s.Inv → s.eng.phase = .wait →
    s.env.busQ = pins ++ rest → (∀ b ∈ pins, b.done = false) → noResetFor pins.length s →
    ∃ t, Host.Core.run Sys2Proof.core pins.length s = .next t ∧ t.eng = { s.eng with ovr := t.eng.ovr }

/-- R112, R56: while a command runs, what the host does cannot change the engine, OVR apart. -/
def Obligations.HostCannotDisturbACommand : Prop :=
  ∀ (s t u : State) (q : List HostOp), s.eng.busy = true → step s = .next t →
    step { s with env := { s.env with hostQ := q } } = .next u →
    u.eng = { t.eng with ovr := u.eng.ovr }

/-! ### Invariants and whole-machine rules -/

/-- R36, R22, R125: every step keeps the invariant. -/
def Obligations.StepKeepsTheInvariant : Prop :=
  ∀ s t : State, s.Inv → step s = .next t → t.Inv

/-- R37, R36: the invariant holds after reset, for every parameter set. -/
def Obligations.ResetMeetsTheInvariant : Prop :=
  ∀ p : Params, (State.resetWith p).Inv

/-- From a state that meets the invariant, with parameters inside the spec, every cycle has a next state, with the
same parameters (R20) and one cycle later (R12). -/
def Obligations.EveryCycleHasANextState : Prop :=
  ∀ s : State, s.params.valid = true → s.Inv →
    ∃ t, step s = .next t ∧ t.params = s.params ∧ t.env.cycle = s.env.cycle + 1

/-- R36 (e), R23: while BUSY = 1, and rst_n = 1, neither CONFIG nor the text words nor the micro-list change. -/
def Obligations.OperandsFixedWhileBusy : Prop :=
  ∀ s t : State, s.eng.busy = true → s.env.inReset = false → step s = .next t →
    t.eng.config = s.eng.config ∧ t.eng.text0 = s.eng.text0 ∧ t.eng.text1 = s.eng.text1
    ∧ t.eng.text2 = s.eng.text2 ∧ t.eng.text3 = s.eng.text3 ∧ t.eng.ml = s.eng.ml

/-- R22: while a command runs, IDX stays or goes up by exactly one, and then the next entry is issued. -/
def Obligations.IndexNeverJumps : Prop :=
  ∀ s t : State, s.eng.busy = true → s.env.inReset = false → step s = .next t →
    t.eng.idx = s.eng.idx ∨ (t.eng.idx = s.eng.idx + 1 ∧ t.eng.phase = .issue)

/-- R154: every change of STATE is one of the rule's transitions, by its own event; those that go up are the end of
an entry of a running INIT. -/
def Obligations.StateTransitions : Prop :=
  ∀ s t : State, s.Inv → step s = .next t → t.eng.ctrl ≠ s.eng.ctrl →
    (s.env.inReset = true ∧ t.eng.ctrl = .uninitialized)
    ∨ (portAction s = .command 0x00001000#32 ∧ s.eng.phase = .idle ∧ t.eng.ctrl = .uninitialized)
    ∨ (s.eng.phase = .wait ∧ s.env.busNow.done = true ∧ s.env.busNow.err = true ∧ t.eng.ctrl = .uninitialized)
    ∨ (∃ x, s.eng.ml.entries[s.eng.idx]? = some x ∧ x.tag.ctrl? = some t.eng.ctrl
        ∧ t.eng.ctrl.code = s.eng.ctrl.code + 1 ∧ (∃ c, s.eng.ml = initList s.params c)
        ∧ ((s.eng.phase = .post ∧ s.eng.wcnt = 1)
          ∨ (s.eng.phase = .wait ∧ s.env.busNow.done = true ∧ s.env.busNow.err = false ∧ x.delay = 0)))

/-- R30, R107: CURSOR changes only in reset or by the tag of an entry, in the cycle in which that entry finishes, and
the lists of WRITE_BYTE and WRITE_NIBBLE carry no tag. -/
def Obligations.CursorFollowsTags : Prop :=
  (∀ s t : State, step s = .next t → s.env.inReset = false → t.eng.cursor ≠ s.eng.cursor →
    ∃ x, s.eng.ml.entries[s.eng.idx]? = some x ∧ x.tag.cursor? = some t.eng.cursor
      ∧ ((s.eng.phase = .post ∧ s.eng.wcnt = 1)
        ∨ (s.eng.phase = .wait ∧ s.env.busNow.done = true ∧ s.env.busNow.err = false ∧ x.delay = 0)))
  ∧ ∀ (p : Params) (e : Engine) (rs : Bool) (b : Byte) (v : Nibble),
      (∀ x ∈ (build p e (.writeByte rs b)).entries, x.tag = .none)
      ∧ ∀ x ∈ (build p e (.writeNibble rs v)).entries, x.tag = .none

/-- R31: LAST and VALID follow each successful done; VALID falls at a transport error; nothing else but reset
writes SHADOW. -/
def Obligations.ShadowRule : Prop :=
  ∀ (s t : State), s.Inv → step s = .next t → s.env.inReset = false →
    (s.eng.phase = .wait → s.env.busNow.done = true → s.env.busNow.err = false →
      ∃ x, s.eng.ml.entries[s.eng.idx]? = some x ∧ t.eng.shadow = ⟨x.byte, true⟩)
    ∧ (s.eng.phase = .wait → s.env.busNow.done = true → s.env.busNow.err = true →
        t.eng.shadow = ⟨s.eng.shadow.last, false⟩)
    ∧ (s.eng.phase ≠ .wait ∨ s.env.busNow.done = false → t.eng.shadow = s.eng.shadow)

/-- R32: FAULT is written by a transport error, FVALID cleared by an accepted command, and nothing else but reset
changes it. -/
def Obligations.FaultRegisterRule : Prop :=
  ∀ (s t : State), s.Inv → step s = .next t → s.env.inReset = false →
    (s.eng.phase = .wait → s.env.busNow.done = true → s.env.busNow.err = true →
      ∃ x, s.eng.ml.entries[s.eng.idx]? = some x
        ∧ t.eng.fault.byte = x.byte ∧ t.eng.fault.idx.toNat = s.eng.idx ∧ t.eng.fault.valid = true)
    ∧ (s.eng.phase = .idle → t.eng.phase ≠ .idle → t.eng.fault = { s.eng.fault with valid := false })
    ∧ ((s.eng.phase = .idle ∧ t.eng.phase = .idle)
        ∨ (s.eng.phase ≠ .idle ∧ (s.eng.phase ≠ .wait ∨ s.env.busNow.done = false ∨ s.env.busNow.err = false)) →
        t.eng.fault = s.eng.fault)

/-- R125: every byte the engine puts on the bus has BL = 1 and RW = 0 at their pins. -/
def Obligations.IssuedBytesKeepBacklightAndWrite : Prop :=
  ∀ s : State, s.Inv → busReq s = true →
    pinOf s.params.pins.bl (busData s) = true ∧ pinOf s.params.pins.rw (busData s) = false

/-! ### A command from acceptance to its end -/

/-- R104: when the writes of an accepted command are issued and done, and when BUSY reads 1. -/
def Obligations.CommandTiming : Prop :=
  ∀ (s : State) (i : Instr) (q : List HostOp) (latencies : List Nat) (first : BusIn) (prePins pins rest : List BusIn),
    AcceptedRun s i q latencies first prePins pins rest →
    let list := build s.params s.eng i
    let issued (k : Nat) := 1 + list.pre + cyclesOf (list.entries.take k) (latencies.take k)
    (∀ (k : Nat) (x : Entry) (lat : Nat), list.entries[k]? = some x → latencies[k]? = some lat →
      (∃ u, Host.Core.run Sys2Proof.core (issued k) s = .next u ∧ issuedNow u = some x.byte)
      ∧ ∃ u, Host.Core.run Sys2Proof.core (issued k + lat) s = .next u ∧ completedNow u = some x.byte)
    ∧ (∀ n : Nat, 1 ≤ n → n < 1 + list.pre + cyclesOf list.entries latencies →
        ∃ u, Host.Core.run Sys2Proof.core n s = .next u ∧ u.eng.busy = true)
    ∧ ∃ u, Host.Core.run Sys2Proof.core (1 + list.pre + cyclesOf list.entries latencies) s = .next u
        ∧ u.eng.busy = false

/-- R105, R108, R107: a command whose writes all succeed ends after pre + m + Σ L + Σ d cycles with RESULT = OK, the
tags applied, SHADOW at its last byte, and everything else as it was; the host's other accesses change OVR only. -/
def Obligations.CommandCompletes : Prop :=
  ∀ (s : State) (i : Instr) (q : List HostOp) (latencies : List Nat) (first : BusIn) (prePins pins rest : List BusIn),
    AcceptedRun s i q latencies first prePins pins rest →
    let list := build s.params s.eng i
    ∃ t, Host.Core.run Sys2Proof.core (1 + list.pre + cyclesOf list.entries latencies) s = .next t
      ∧ t.env.busQ = rest
      ∧ t.eng = { s.eng with
          phase := .idle, idx := list.entries.length - 1, ml := list, wcnt := 0
          ctrl := ctrlAfter list.entries (if i = .init then .uninitialized else s.eng.ctrl)
          cursor := cursorAfter list.entries s.eng.cursor
          result := .ok, ovr := t.eng.ovr
          shadow := ⟨(list.entries.getLast?.map Entry.byte).getD s.eng.shadow.last, true⟩
          fault := { s.eng.fault with valid := false } }

/-- R52, R101: the expander receives the bytes of a completed command in micro-list order, and no others. -/
def Obligations.ExpanderReceivesTheMicroList : Prop :=
  ∀ (s : State) (i : Instr) (q : List HostOp) (latencies : List Nat) (first : BusIn) (prePins pins rest : List BusIn),
    AcceptedRun s i q latencies first prePins pins rest →
    let list := build s.params s.eng i
    let n := 1 + list.pre + cyclesOf list.entries latencies
    completedBytes n s = list.entries.map Entry.byte ∧ issuedBytes n s = list.entries.map Entry.byte

/-- R145, R146, R140: a successful INIT, from any STATE, ends in Ready with CURSOR (0, 0) and RESULT = OK. -/
def Obligations.InitReachesReady : Prop :=
  ∀ (s : State) (q : List HostOp) (latencies : List Nat) (first : BusIn) (prePins pins rest : List BusIn),
    AcceptedRun s .init q latencies first prePins pins rest →
    ∃ t, Host.Core.run Sys2Proof.core
        (1 + s.params.nPower + (42 + latencies.sum
          + (14 * (s.params.nSetup + s.params.nEn + s.params.nSettle)
            + (s.params.nInitGap - s.params.nSettle) + s.params.nExt))) s = .next t
      ∧ t.eng.ctrl = .ready ∧ t.eng.cursor = ⟨0, 0⟩ ∧ t.eng.result = .ok ∧ t.eng.busy = false

/-- R106, R153, R108: a command whose write with index k fails ends at that done: the writes before it are done, no
later one is issued, and FAULT, SHADOW, STATE and RESULT record the failure. -/
def Obligations.FailedWriteEndsTheCommand : Prop :=
  ∀ (s : State) (i : Instr) (q : List HostOp) (k : Nat) (latencies : List Nat) (first : BusIn)
    (prePins pins : List BusIn) (issue bad : BusIn) (waits rest : List BusIn),
    FailingRun s i q k latencies first prePins pins issue bad waits rest →
    let list := build s.params s.eng i
    let n := 1 + list.pre + cyclesOf (list.entries.take k) latencies + (waits.length + 2)
    ∃ t, Host.Core.run Sys2Proof.core n s = .next t
      ∧ completedBytes n s = (list.entries.take k).map Entry.byte
      ∧ issuedBytes n s = (list.entries.take (k + 1)).map Entry.byte
      ∧ t.eng = { s.eng with
          phase := .idle, idx := k, ml := list, wcnt := 0, ctrl := .uninitialized
          cursor := cursorAfter (list.entries.take k) s.eng.cursor
          result := .transportError, ovr := t.eng.ovr
          shadow := ⟨((list.entries.take k).getLast?.map Entry.byte).getD s.eng.shadow.last, false⟩
          fault := ⟨(list.entries[k]?.map Entry.byte).getD 0, BitVec.ofNat 8 k, true⟩ }

/-- R153: from the cycle after a transport error on, until an INIT completes with OK, STATE is not Ready, and a
display command written to CMD while BUSY = 0 is refused with NOT_INITIALIZED and requests nothing on the bus,
whatever the host, the bus agent and the reset input do. -/
def Obligations.FailureLocksDisplayCommands : Prop :=
  ∀ (s t u : State) (n : Nat), s.Inv → s.eng.phase = .wait → s.env.inReset = false →
    s.env.busNow.done = true → s.env.busNow.err = true → step s = .next t →
    Host.Core.run Sys2Proof.core n t = .next u → NoInitCompletes n t →
    u.eng.ctrl ≠ .ready
    ∧ ∀ (w : Word) (i : Instr) (q : List HostOp), u.eng.busy = false → HostWrites u .cmd w q → decode w = some i →
        i.op = .clear ∨ i.op = .setCursor ∨ i.op = .writeText →
        ∃ v, step u = .next v ∧ v.eng = { u.eng with result := .notInitialized } ∧ busReq u = false ∧ busReq v = false

/-! ### The model's choice on terms no word carries -/

/-- The model's choice (log entry 19), no rule of the spec: on a term no word carries, exec checks the Ready gate and
LINE as R176 does on a word's fields. -/
def Obligations.IllFormedTermsAreCheckedAlike : Prop :=
  ∀ (s : State) (i : Instr), s.eng.phase = .idle → i.wf = false →
    (s.eng.ctrl ≠ .ready → exec i s = .next { s with eng := { s.eng with result := .notInitialized } })
    ∧ ∀ line arg : Nat, s.eng.ctrl = .ready → 1 < line → i = .setCursor line arg ∨ i = .writeText line arg →
        exec i s = .next { s with eng := { s.eng with result := .rangeError } }
end

