-- ==== Sys2Proof/Laws/Decode.lean ====
section
/-! SUPPORT. The decoder as one chain of comparisons, in the order of the opcode map (30_encoding.md R66). -/

namespace Sys2Proof

/-- Decoding tries the rows of the map one after the other. -/
theorem decode_eq_chain (w : Word) : decode w =
    if w &&& 0xFFFFFFFF#32 = 0x00001000#32 then some .init
    else if w &&& 0xFFFFFFFF#32 = 0x00002000#32 then some .clear
    else if w &&& 0xFFFFFC00#32 = 0x00003000#32 then some (.setCursor (lineField w) (argField w))
    else if w &&& 0xFFFFFC00#32 = 0x00004000#32 then some (.writeText (lineField w) (argField w))
    else if w &&& 0xFFFFFE00#32 = 0x00005000#32 then some (.writeByte (rsField w) (dataField w))
    else if w &&& 0xFFFFFEF0#32 = 0x00006000#32 then some (.writeNibble (rsField w) (nibField w))
    else none := by
  simp only [decode, opcodeMap, List.find?, OpRow.selects]
  by_cases h1 : w &&& 0xFFFFFFFF#32 = 0x00001000#32
  · simp [h1, operandsOf]
  by_cases h2 : w &&& 0xFFFFFFFF#32 = 0x00002000#32
  · simp [h2, operandsOf]
  by_cases h3 : w &&& 0xFFFFFC00#32 = 0x00003000#32
  · simp [beq_eq_false_iff_ne.mpr h1, beq_eq_false_iff_ne.mpr h2, h1, h2, h3, operandsOf]
  by_cases h4 : w &&& 0xFFFFFC00#32 = 0x00004000#32
  · simp [beq_eq_false_iff_ne.mpr h1, beq_eq_false_iff_ne.mpr h2, h1, h2, h4, operandsOf]
  by_cases h5 : w &&& 0xFFFFFE00#32 = 0x00005000#32
  · simp [beq_eq_false_iff_ne.mpr h1, beq_eq_false_iff_ne.mpr h2, beq_eq_false_iff_ne.mpr h3,
      beq_eq_false_iff_ne.mpr h4, h1, h2, h3, h4, h5, operandsOf]
  by_cases h6 : w &&& 0xFFFFFEF0#32 = 0x00006000#32
  · simp [beq_eq_false_iff_ne.mpr h1, beq_eq_false_iff_ne.mpr h2, beq_eq_false_iff_ne.mpr h3,
      beq_eq_false_iff_ne.mpr h4, beq_eq_false_iff_ne.mpr h5, h1, h2, h3, h4, h5, h6, operandsOf]
  · simp [beq_eq_false_iff_ne.mpr h1, beq_eq_false_iff_ne.mpr h2, beq_eq_false_iff_ne.mpr h3,
      beq_eq_false_iff_ne.mpr h4, beq_eq_false_iff_ne.mpr h5, beq_eq_false_iff_ne.mpr h6, h1, h2, h3, h4, h5, h6]

/-- Every decoded command's operands fit their fields. -/
theorem lineField_lt (w : Word) : lineField w < 4 := by
  simp only [lineField]; omega

theorem argField_lt (w : Word) : argField w < 256 := by
  simp only [argField]; omega

end Sys2Proof
end

