-- ==== Sys2Proof/Laws/Pack.lean ====
section
/-! SUPPORT. The bits of a packed byte (41_nibble.md R121). -/

namespace Sys2Proof

@[simp] theorem getLsbD_placeBit (b : Bool) (pos : Fin 8) (i : Nat) :
    (placeBit b pos).getLsbD i = (b && decide (i = pos.val)) := by
  have hp := pos.isLt
  simp only [placeBit, BitVec.getLsbD_shiftLeft, BitVec.getLsbD_setWidth, BitVec.getLsbD_ofBool]
  rcases Nat.lt_trichotomy i pos.val with h | h | h
  · simp [h, Nat.ne_of_lt h]
  · subst h; simp [hp]
  · have h1 : ¬ i < pos.val := by omega
    have h2 : i - pos.val ≠ 0 := by omega
    have h3 : i ≠ pos.val := by omega
    simp [h2, h3]

/-- The level of a signal of a packed byte, by the signals placed there. -/
theorem pinOf_pack (l : PinLayout) (v : Nibble) (rs en : Bool) (pos : Fin 8) :
    pinOf pos (pack l v rs en) =
      (decide (pos = l.bl) || (rs && decide (pos = l.rs)) || (en && decide (pos = l.en))
        || (v.getLsbD 0 && decide (pos = l.d0)) || (v.getLsbD 1 && decide (pos = l.d1))
        || (v.getLsbD 2 && decide (pos = l.d2)) || (v.getLsbD 3 && decide (pos = l.d3))) := by
  simp only [pinOf, pack, BitVec.getLsbD_or, getLsbD_placeBit, Fin.ext_iff, Bool.true_and, Bool.false_and,
    Bool.or_false]

end Sys2Proof
end

