-- ==== Sys2Proof/Laws/MicroLists.lean ====
section
/-! SUPPORT. What every micro-list of a command looks like: its length (10_state.md R22), its bytes (41_nibble.md
R125) and its STATE tags (43_controller.md R145, R154). -/

namespace Sys2Proof.Machine

/-- Every byte of the bit-packer has BL = 1 and RW = 0 (R120). -/
theorem wiredByte_pack {l : PinLayout} (h : l.valid = true) (v : Nibble) (rs en : Bool) :
    wiredByte l (pack l v rs en) = true := by
  simp [PinLayout.valid, PinLayout.positions] at h
  simp only [wiredByte, pinOf_pack]
  grind

/-- Every byte of a nibble's three writes is the bit-packer's (R122). -/
theorem wiredByte_nib {p : Params} (h : p.pins.valid = true) (v : Nibble) (rs : Bool) (d : Nat) (t : Tag) :
    ∀ x ∈ nib p v rs d t, wiredByte p.pins x.byte = true := by
  simp [nib, wiredByte_pack h]

/-- Every byte of a byte's six writes is the bit-packer's (R130). -/
theorem wiredByte_byteEntries {p : Params} (h : p.pins.valid = true) (b : Byte) (rs : Bool) (t : Tag) :
    ∀ x ∈ byteEntries p b rs t, wiredByte p.pins x.byte = true := by
  intro x hx
  obtain hx | hx := List.mem_append.mp hx <;> exact wiredByte_nib h _ _ _ _ x hx

theorem length_nib (p : Params) (v : Nibble) (rs : Bool) (d : Nat) (t : Tag) : (nib p v rs d t).length = 3 := rfl

theorem length_byteEntries (p : Params) (b : Byte) (rs : Bool) (t : Tag) : (byteEntries p b rs t).length = 6 := rfl

/-- Six writes for each character (R149). -/
theorem length_chars (p : Params) (cs : List Byte) :
    (cs.flatMap (fun c => byteEntries p c true .none)).length = 6 * cs.length := by
  induction cs with
  | nil => rfl
  | cons c cs ih => rw [List.flatMap_cons, List.length_append, ih, length_byteEntries, List.length_cons]; ring

/-- A tag-free list keeps the STATE tags ascending. -/
theorem tagsAscend_of_none (c : CtrlState) {l : List Entry} (h : ∀ x ∈ l, x.tag.ctrl? = none) :
    tagsAscend c l = true := by
  induction l with
  | nil => rfl
  | cons x l ih =>
    simp only [tagsAscend, h x (List.mem_cons_self ..)]
    exact ih (fun y hy => h y (List.mem_cons_of_mem x hy))

/-- A byte's entries carry a STATE tag only where its own tag is one (R130). -/
theorem ctrl?_byteEntries (p : Params) (b : Byte) (rs : Bool) {t : Tag} (h : t.ctrl? = none) :
    ∀ x ∈ byteEntries p b rs t, x.tag.ctrl? = none := by
  intro x hx
  simp only [byteEntries, nib, List.cons_append, List.nil_append, List.mem_cons, List.not_mem_nil, or_false] at hx
  obtain rfl | rfl | rfl | rfl | rfl | rfl := hx
  all_goals first | exact h | rfl

/-- No micro-list but INIT's carries a STATE tag (R145). -/
theorem ctrl?_build (p : Params) (e : Engine) {i : Instr} (hi : i ≠ .init) :
    ∀ x ∈ (build p e i).entries, x.tag.ctrl? = none := by
  intro x hx
  cases i with
  | init => exact absurd rfl hi
  | clear => exact ctrl?_byteEntries p _ _ rfl x hx
  | setCursor line col => exact ctrl?_byteEntries p _ _ rfl x hx
  | writeText line len =>
    obtain hx | hx := List.mem_append.mp hx
    · exact ctrl?_byteEntries p _ _ rfl x hx
    · obtain ⟨c, -, hx⟩ := List.mem_flatMap.mp hx
      exact ctrl?_byteEntries p c true rfl x hx
  | writeByte rs b => exact ctrl?_byteEntries p _ _ rfl x hx
  | writeNibble rs v =>
    simp only [build, nibList, nib, List.mem_cons, List.not_mem_nil, or_false] at hx
    obtain rfl | rfl | rfl := hx <;> rfl

end Sys2Proof.Machine
end

