-- ==== Sys2Proof/Laws/State.lean ====
section
/-! SUPPORT. The fields of every named update of the state, one lemma per field, each by unfolding once. -/

namespace Sys2Proof.Machine

/-! ### Acceptance (R100) -/

@[simp] theorem Engine.accept_phase (ml : MicroList) (e : Engine) :
    (e.accept ml).phase = if 0 < ml.pre then .pre else .issue := rfl
@[simp] theorem Engine.accept_idx (ml : MicroList) (e : Engine) :
    (e.accept ml).idx = 0 := rfl
@[simp] theorem Engine.accept_ml (ml : MicroList) (e : Engine) :
    (e.accept ml).ml = ml := rfl
@[simp] theorem Engine.accept_wcnt (ml : MicroList) (e : Engine) :
    (e.accept ml).wcnt = if 0 < ml.pre then ml.pre else e.wcnt := rfl
@[simp] theorem Engine.accept_ctrl (ml : MicroList) (e : Engine) :
    (e.accept ml).ctrl = e.ctrl := rfl
@[simp] theorem Engine.accept_result (ml : MicroList) (e : Engine) :
    (e.accept ml).result = .pending := rfl
@[simp] theorem Engine.accept_ovr (ml : MicroList) (e : Engine) :
    (e.accept ml).ovr = e.ovr := rfl
@[simp] theorem Engine.accept_config (ml : MicroList) (e : Engine) :
    (e.accept ml).config = e.config := rfl
@[simp] theorem Engine.accept_cursor (ml : MicroList) (e : Engine) :
    (e.accept ml).cursor = e.cursor := rfl
@[simp] theorem Engine.accept_shadow (ml : MicroList) (e : Engine) :
    (e.accept ml).shadow = e.shadow := rfl
@[simp] theorem Engine.accept_fault (ml : MicroList) (e : Engine) :
    (e.accept ml).fault = { e.fault with valid := false } := rfl
@[simp] theorem Engine.accept_text0 (ml : MicroList) (e : Engine) :
    (e.accept ml).text0 = e.text0 := rfl
@[simp] theorem Engine.accept_text1 (ml : MicroList) (e : Engine) :
    (e.accept ml).text1 = e.text1 := rfl
@[simp] theorem Engine.accept_text2 (ml : MicroList) (e : Engine) :
    (e.accept ml).text2 = e.text2 := rfl
@[simp] theorem Engine.accept_text3 (ml : MicroList) (e : Engine) :
    (e.accept ml).text3 = e.text3 := rfl

/-! ### Acceptance of INIT (R100, R140) -/

@[simp] theorem Engine.acceptInit_phase (ml : MicroList) (e : Engine) :
    (e.acceptInit ml).phase = if 0 < ml.pre then .pre else .issue := rfl
@[simp] theorem Engine.acceptInit_idx (ml : MicroList) (e : Engine) :
    (e.acceptInit ml).idx = 0 := rfl
@[simp] theorem Engine.acceptInit_ml (ml : MicroList) (e : Engine) :
    (e.acceptInit ml).ml = ml := rfl
@[simp] theorem Engine.acceptInit_wcnt (ml : MicroList) (e : Engine) :
    (e.acceptInit ml).wcnt = if 0 < ml.pre then ml.pre else e.wcnt := rfl
@[simp] theorem Engine.acceptInit_ctrl (ml : MicroList) (e : Engine) :
    (e.acceptInit ml).ctrl = .uninitialized := rfl
@[simp] theorem Engine.acceptInit_result (ml : MicroList) (e : Engine) :
    (e.acceptInit ml).result = .pending := rfl
@[simp] theorem Engine.acceptInit_ovr (ml : MicroList) (e : Engine) :
    (e.acceptInit ml).ovr = e.ovr := rfl
@[simp] theorem Engine.acceptInit_config (ml : MicroList) (e : Engine) :
    (e.acceptInit ml).config = e.config := rfl
@[simp] theorem Engine.acceptInit_cursor (ml : MicroList) (e : Engine) :
    (e.acceptInit ml).cursor = e.cursor := rfl
@[simp] theorem Engine.acceptInit_shadow (ml : MicroList) (e : Engine) :
    (e.acceptInit ml).shadow = e.shadow := rfl
@[simp] theorem Engine.acceptInit_fault (ml : MicroList) (e : Engine) :
    (e.acceptInit ml).fault = { e.fault with valid := false } := rfl
@[simp] theorem Engine.acceptInit_text0 (ml : MicroList) (e : Engine) :
    (e.acceptInit ml).text0 = e.text0 := rfl
@[simp] theorem Engine.acceptInit_text1 (ml : MicroList) (e : Engine) :
    (e.acceptInit ml).text1 = e.text1 := rfl
@[simp] theorem Engine.acceptInit_text2 (ml : MicroList) (e : Engine) :
    (e.acceptInit ml).text2 = e.text2 := rfl
@[simp] theorem Engine.acceptInit_text3 (ml : MicroList) (e : Engine) :
    (e.acceptInit ml).text3 = e.text3 := rfl

/-! ### Refusal (R110) -/

@[simp] theorem Engine.refuse_phase (c : ResultCode) (e : Engine) :
    (e.refuse c).phase = e.phase := rfl
@[simp] theorem Engine.refuse_idx (c : ResultCode) (e : Engine) :
    (e.refuse c).idx = e.idx := rfl
@[simp] theorem Engine.refuse_ml (c : ResultCode) (e : Engine) :
    (e.refuse c).ml = e.ml := rfl
@[simp] theorem Engine.refuse_wcnt (c : ResultCode) (e : Engine) :
    (e.refuse c).wcnt = e.wcnt := rfl
@[simp] theorem Engine.refuse_ctrl (c : ResultCode) (e : Engine) :
    (e.refuse c).ctrl = e.ctrl := rfl
@[simp] theorem Engine.refuse_result (c : ResultCode) (e : Engine) :
    (e.refuse c).result = c := rfl
@[simp] theorem Engine.refuse_ovr (c : ResultCode) (e : Engine) :
    (e.refuse c).ovr = e.ovr := rfl
@[simp] theorem Engine.refuse_config (c : ResultCode) (e : Engine) :
    (e.refuse c).config = e.config := rfl
@[simp] theorem Engine.refuse_cursor (c : ResultCode) (e : Engine) :
    (e.refuse c).cursor = e.cursor := rfl
@[simp] theorem Engine.refuse_shadow (c : ResultCode) (e : Engine) :
    (e.refuse c).shadow = e.shadow := rfl
@[simp] theorem Engine.refuse_fault (c : ResultCode) (e : Engine) :
    (e.refuse c).fault = e.fault := rfl
@[simp] theorem Engine.refuse_text0 (c : ResultCode) (e : Engine) :
    (e.refuse c).text0 = e.text0 := rfl
@[simp] theorem Engine.refuse_text1 (c : ResultCode) (e : Engine) :
    (e.refuse c).text1 = e.text1 := rfl
@[simp] theorem Engine.refuse_text2 (c : ResultCode) (e : Engine) :
    (e.refuse c).text2 = e.text2 := rfl
@[simp] theorem Engine.refuse_text3 (c : ResultCode) (e : Engine) :
    (e.refuse c).text3 = e.text3 := rfl

/-! ### Abort (R106) -/

@[simp] theorem Engine.abort_phase (b : Byte) (e : Engine) :
    (e.abort b).phase = .idle := rfl
@[simp] theorem Engine.abort_idx (b : Byte) (e : Engine) :
    (e.abort b).idx = e.idx := rfl
@[simp] theorem Engine.abort_ml (b : Byte) (e : Engine) :
    (e.abort b).ml = e.ml := rfl
@[simp] theorem Engine.abort_wcnt (b : Byte) (e : Engine) :
    (e.abort b).wcnt = 0 := rfl
@[simp] theorem Engine.abort_ctrl (b : Byte) (e : Engine) :
    (e.abort b).ctrl = .uninitialized := rfl
@[simp] theorem Engine.abort_result (b : Byte) (e : Engine) :
    (e.abort b).result = .transportError := rfl
@[simp] theorem Engine.abort_ovr (b : Byte) (e : Engine) :
    (e.abort b).ovr = e.ovr := rfl
@[simp] theorem Engine.abort_config (b : Byte) (e : Engine) :
    (e.abort b).config = e.config := rfl
@[simp] theorem Engine.abort_cursor (b : Byte) (e : Engine) :
    (e.abort b).cursor = e.cursor := rfl
@[simp] theorem Engine.abort_shadow (b : Byte) (e : Engine) :
    (e.abort b).shadow = { e.shadow with valid := false } := rfl
@[simp] theorem Engine.abort_fault (b : Byte) (e : Engine) :
    (e.abort b).fault = ⟨b, BitVec.ofNat 8 e.idx, true⟩ := rfl
@[simp] theorem Engine.abort_text0 (b : Byte) (e : Engine) :
    (e.abort b).text0 = e.text0 := rfl
@[simp] theorem Engine.abort_text1 (b : Byte) (e : Engine) :
    (e.abort b).text1 = e.text1 := rfl
@[simp] theorem Engine.abort_text2 (b : Byte) (e : Engine) :
    (e.abort b).text2 = e.text2 := rfl
@[simp] theorem Engine.abort_text3 (b : Byte) (e : Engine) :
    (e.abort b).text3 = e.text3 := rfl

/-! ### Tags (R107) -/

/-- A tag writes STATE and CURSOR only. -/
theorem Engine.applyTag_eq (t : Tag) (e : Engine) :
    e.applyTag t = { e with ctrl := (e.applyTag t).ctrl, cursor := (e.applyTag t).cursor } := by
  cases t <;> rfl

@[simp] theorem Engine.applyTag_phase (t : Tag) (e : Engine) : (e.applyTag t).phase = e.phase := by
  cases t <;> rfl
@[simp] theorem Engine.applyTag_idx (t : Tag) (e : Engine) : (e.applyTag t).idx = e.idx := by
  cases t <;> rfl
@[simp] theorem Engine.applyTag_ml (t : Tag) (e : Engine) : (e.applyTag t).ml = e.ml := by
  cases t <;> rfl
@[simp] theorem Engine.applyTag_wcnt (t : Tag) (e : Engine) : (e.applyTag t).wcnt = e.wcnt := by
  cases t <;> rfl
@[simp] theorem Engine.applyTag_result (t : Tag) (e : Engine) : (e.applyTag t).result = e.result := by
  cases t <;> rfl
@[simp] theorem Engine.applyTag_ovr (t : Tag) (e : Engine) : (e.applyTag t).ovr = e.ovr := by
  cases t <;> rfl
@[simp] theorem Engine.applyTag_config (t : Tag) (e : Engine) : (e.applyTag t).config = e.config := by
  cases t <;> rfl
@[simp] theorem Engine.applyTag_shadow (t : Tag) (e : Engine) : (e.applyTag t).shadow = e.shadow := by
  cases t <;> rfl
@[simp] theorem Engine.applyTag_fault (t : Tag) (e : Engine) : (e.applyTag t).fault = e.fault := by
  cases t <;> rfl
@[simp] theorem Engine.applyTag_text0 (t : Tag) (e : Engine) : (e.applyTag t).text0 = e.text0 := by
  cases t <;> rfl
@[simp] theorem Engine.applyTag_text1 (t : Tag) (e : Engine) : (e.applyTag t).text1 = e.text1 := by
  cases t <;> rfl
@[simp] theorem Engine.applyTag_text2 (t : Tag) (e : Engine) : (e.applyTag t).text2 = e.text2 := by
  cases t <;> rfl
@[simp] theorem Engine.applyTag_text3 (t : Tag) (e : Engine) : (e.applyTag t).text3 = e.text3 := by
  cases t <;> rfl

/-! ### The state around the engine -/

@[simp] theorem endCycle_params (s0 s : State) : (endCycle s0 s).params = s.params := rfl
@[simp] theorem endCycle_eng (s0 s : State) : (endCycle s0 s).eng = s.eng := rfl
@[simp] theorem endCycle_env (s0 s : State) : (endCycle s0 s).env = envNext s0 := rfl
@[simp] theorem resetCycle_params (s : State) : (resetCycle s).params = s.params := rfl
@[simp] theorem resetCycle_eng (s : State) : (resetCycle s).eng = Engine.reset := rfl
@[simp] theorem resetCycle_env (s : State) : (resetCycle s).env = s.env := rfl
@[simp] theorem State.withFetchWord_params (s : State) (nbits w : Nat) : (s.withFetchWord nbits w).params = s.params := rfl
@[simp] theorem State.withFetchWord_eng (s : State) (nbits w : Nat) : (s.withFetchWord nbits w).eng = s.eng := rfl
@[simp] theorem State.withProgram_params (s : State) (lines : List HostLine) : (s.withProgram lines).params = s.params := rfl
@[simp] theorem State.withProgram_eng (s : State) (lines : List HostLine) : (s.withProgram lines).eng = s.eng := rfl
@[simp] theorem State.resetWith_params (p : Params) : (State.resetWith p).params = p := rfl
@[simp] theorem State.resetWith_eng (p : Params) : (State.resetWith p).eng = Engine.reset := rfl
@[simp] theorem State.resetWith_env (p : Params) : (State.resetWith p).env = Env.start := rfl
@[simp] theorem envNext_cycle (s : State) : (envNext s).cycle = s.env.cycle + 1 := rfl
@[simp] theorem envNext_hostQ (s : State) : (envNext s).hostQ = hostQNext s := rfl
@[simp] theorem envNext_rstQ (s : State) : (envNext s).rstQ = s.env.rstQ.tail := rfl
@[simp] theorem envNext_busQ (s : State) : (envNext s).busQ = s.env.busQ.tail := rfl
@[simp] theorem envNext_rdata (s : State) : (envNext s).rdata = rdataNext s := rfl

@[simp] theorem mapNext_next (f : State → State) (s : State) : mapNext f (.next s) = .next (f s) := rfl
@[simp] theorem mapNext_fault (f : State → State) (r : Fault) : mapNext f (.fault r) = .fault r := rfl
@[simp] theorem mapNext_refused (f : State → State) (r : Refusal) : mapNext f (.refused r) = .refused r := rfl

/-- A mapped outcome is a next state only of a next state. -/
theorem mapNext_eq_next {f : State → State} {o : Host.Outcome State Fault Refusal} {t : State}
    (h : mapNext f o = .next t) : ∃ s, o = .next s ∧ t = f s := by
  cases o with
  | next s => exact ⟨s, rfl, by simpa using h.symm⟩
  | fault r => simp at h
  | refused r => simp at h

end Sys2Proof.Machine
end

