-- ==== Sys2Proof/Laws/Ops.lean ====
section
/-! SUPPORT. What each shared operation can do, said once: the sequencer's cycle by phase (40_command_engine.md
R102), a write to CMD (R100, R56), and the cases of a step. -/

namespace Sys2Proof.Machine

/-! ### BUSY -/

theorem Engine.busy_eq_false_iff (e : Engine) : e.busy = false ↔ e.phase = .idle := by
  cases h : e.phase <;> simp [Engine.busy, h]

theorem Engine.busy_eq_true_iff (e : Engine) : e.busy = true ↔ e.phase ≠ .idle := by
  cases h : e.phase <;> simp [Engine.busy, h]

/-! ### One cycle of the sequencer, by phase -/

theorem Engine.cycle_idle {e : Engine} (b : BusIn) (h : e.phase = .idle) : e.cycle b = .ok e := by
  unfold Engine.cycle; simp [h]

theorem Engine.cycle_pre {e : Engine} (b : BusIn) (h : e.phase = .pre) : e.cycle b = e.preCycle := by
  unfold Engine.cycle; simp [h]

theorem Engine.cycle_issue {e : Engine} {x : Entry} (b : BusIn) (h : e.phase = .issue)
    (hx : e.ml.entries[e.idx]? = some x) : e.cycle b = .ok { e with phase := .wait } := by
  unfold Engine.cycle; simp [h, hx, Engine.issueCycle]

theorem Engine.cycle_wait {e : Engine} {x : Entry} (b : BusIn) (h : e.phase = .wait)
    (hx : e.ml.entries[e.idx]? = some x) : e.cycle b = e.waitCycle x b := by
  unfold Engine.cycle; simp [h, hx]

theorem Engine.cycle_post {e : Engine} {x : Entry} (b : BusIn) (h : e.phase = .post)
    (hx : e.ml.entries[e.idx]? = some x) : e.cycle b = e.postCycle x := by
  unfold Engine.cycle; simp [h, hx]

/-- Every way the sequencer's cycle gives a next engine. -/
theorem Engine.cycle_cases {e e' : Engine} {b : BusIn} (h : e.cycle b = .ok e') :
    (e.phase = .idle ∧ e' = e)
    ∨ (e.phase = .pre ∧ e.wcnt = 1 ∧ e' = { e with wcnt := 0, phase := .issue })
    ∨ (e.phase = .pre ∧ 1 < e.wcnt ∧ e' = { e with wcnt := e.wcnt - 1 })
    ∨ (e.phase = .issue ∧ e' = { e with phase := .wait })
    ∨ (∃ x, e.phase = .wait ∧ e.ml.entries[e.idx]? = some x ∧ b.done = true ∧ b.err = true ∧ e' = e.abort x.byte)
    ∨ (∃ x, e.phase = .wait ∧ e.ml.entries[e.idx]? = some x ∧ b.done = true ∧ b.err = false
        ∧ e' = e.doneCycle x)
    ∨ (e.phase = .wait ∧ b.done = false ∧ e' = e)
    ∨ (∃ x, e.phase = .post ∧ e.ml.entries[e.idx]? = some x ∧ e.wcnt = 1
        ∧ e' = { e with wcnt := 0 }.finish x.tag)
    ∨ (e.phase = .post ∧ 1 < e.wcnt ∧ e' = { e with wcnt := e.wcnt - 1 }) := by
  cases hp : e.phase with
  | idle => rw [Engine.cycle_idle b hp] at h; cases h; simp
  | pre =>
    rw [Engine.cycle_pre b hp] at h
    unfold Engine.preCycle at h
    split at h
    · cases h; simp [*]
    · split at h
      · cases h
      · cases h
        have : 1 < e.wcnt := by omega
        simp [*]
  | issue =>
    cases hx : e.ml.entries[e.idx]? with
    | none => simp [Engine.cycle, hp, hx] at h
    | some x => rw [Engine.cycle_issue b hp hx] at h; cases h; simp
  | wait =>
    cases hx : e.ml.entries[e.idx]? with
    | none => simp [Engine.cycle, hp, hx] at h
    | some x =>
      rw [Engine.cycle_wait b hp hx] at h
      unfold Engine.waitCycle at h
      cases hd : b.done <;> cases he : b.err <;> simp [hd, he] at h <;> simp [h]
  | post =>
    cases hx : e.ml.entries[e.idx]? with
    | none => simp [Engine.cycle, hp, hx] at h
    | some x =>
      rw [Engine.cycle_post b hp hx] at h
      unfold Engine.postCycle at h
      split at h
      · cases h; simp [*]
      · split at h
        · cases h
        · cases h
          have : 1 < e.wcnt := by omega
          simp [*]

/-- finish() either ends the command or moves to the next entry (R102, R105). -/
theorem Engine.finish_cases (t : Tag) (e : Engine) :
    (e.idx + 1 = e.ml.entries.length ∧ e.finish t = { e.applyTag t with phase := .idle, result := .ok })
    ∨ (e.idx + 1 ≠ e.ml.entries.length
        ∧ e.finish t = { e.applyTag t with phase := .issue, idx := e.idx + 1 }) := by
  unfold Engine.finish
  split <;> simp [*]

/-! ### A cycle of the machine -/

/-- The engine's own cycle keeps the parameters and the environment. -/
theorem engineCycle_next {e : Engine} {s t : State} (h : engineCycle e s = .next t) :
    ∃ e', e.cycle s.env.busNow = .ok e' ∧ t = { s with eng := e' } := by
  unfold engineCycle at h
  split at h
  · rename_i e' he
    exact ⟨e', he, by simpa using h.symm⟩
  · cases h

/-- A write to CMD while idle, accepted (R100). -/
theorem commandWrite_accepted {s : State} (start : Engine → Engine) (h : s.eng.phase = .idle) :
    commandWrite .ok start s = .next { s with eng := start s.eng } := by
  simp [commandWrite, Engine.busy, h]

/-- A write to CMD while idle, refused (R110). -/
theorem commandWrite_refused {s : State} {code : ResultCode} (start : Engine → Engine)
    (h : s.eng.phase = .idle) (hc : code ≠ .ok) :
    commandWrite code start s = .next { s with eng := s.eng.refuse code } := by
  simp [commandWrite, Engine.busy, h, hc]

/-- A write to CMD while busy is dropped, and the running command goes on (R56). -/
theorem commandWrite_busy {s : State} (code : ResultCode) (start : Engine → Engine)
    (h : s.eng.phase ≠ .idle) :
    commandWrite code start s = engineCycle { s.eng with ovr := true } s := by
  simp [commandWrite, (Engine.busy_eq_true_iff s.eng).mpr h]

/-- Every way a write to CMD gives a next state. -/
theorem commandWrite_cases {s t : State} {code : ResultCode} {start : Engine → Engine}
    (h : commandWrite code start s = .next t) :
    (s.eng.phase = .idle ∧ code = .ok ∧ t = { s with eng := start s.eng })
    ∨ (s.eng.phase = .idle ∧ code ≠ .ok ∧ t = { s with eng := s.eng.refuse code })
    ∨ (s.eng.phase ≠ .idle ∧ engineCycle { s.eng with ovr := true } s = .next t) := by
  by_cases hp : s.eng.phase = .idle
  · by_cases hc : code = .ok
    · subst hc
      rw [commandWrite_accepted start hp] at h
      exact .inl ⟨hp, rfl, by simpa using h.symm⟩
    · rw [commandWrite_refused start hp hc] at h
      exact .inr (.inl ⟨hp, hc, by simpa using h.symm⟩)
  · rw [commandWrite_busy code start hp] at h
    exact .inr (.inr ⟨hp, h⟩)

/-- A command's acceptance engine (R100): INIT's besides sets STATE to Uninitialized. -/
def startOf (p : Params) (i : Instr) (e : Engine) : Engine :=
  match i with
  | .init => e.acceptInit (build p e i)
  | _ => e.accept (build p e i)

/-- Every command is one write to CMD with its check and its micro-list (R100, R109, R176). -/
theorem exec_eq_commandWrite (i : Instr) (s : State) :
    exec i s = commandWrite (checkInstr i s.eng.ctrl) (startOf s.params i) s := by
  cases i <;> rfl

/-- The host's word at CMD, legal or not, is one write to CMD with the code of `check` (R176). -/
theorem commandCycle_eq_commandWrite (w : Word) (s : State) :
    ∃ start : Engine → Engine, commandCycle w s = commandWrite (check w s.eng.ctrl) start s
      ∧ ∀ i, decode w = some i → start = startOf s.params i := by
  unfold commandCycle check
  cases h : decode w with
  | none => exact ⟨id, rfl, by simp⟩
  | some i => exact ⟨startOf s.params i, exec_eq_commandWrite i s, by simp⟩

/-- A step gives a next state only with valid parameters, and then the port's cycle gives it. -/
theorem step_next {s t : State} (h : step s = .next t) :
    s.params.valid = true ∧ ∃ u, portCycle s = .next u ∧ t = endCycle s u := by
  unfold step at h
  split at h
  · rename_i hv
    exact ⟨hv, mapNext_eq_next h⟩
  · cases h

/-- Every way the port's cycle gives a next state: reset, a command accepted or refused, or the engine's own cycle
after what the host wrote. -/
theorem portCycle_cases {s u : State} (h : portCycle s = .next u) :
    (s.env.inReset = true ∧ u = resetCycle s)
    ∨ (∃ w i, portAction s = .command w ∧ s.eng.phase = .idle ∧ decode w = some i
        ∧ checkInstr i s.eng.ctrl = .ok ∧ u = { s with eng := startOf s.params i s.eng })
    ∨ (∃ w, portAction s = .command w ∧ s.eng.phase = .idle ∧ check w s.eng.ctrl ≠ .ok
        ∧ u = { s with eng := s.eng.refuse (check w s.eng.ctrl) })
    ∨ (∃ w, portAction s = .command w ∧ s.eng.phase ≠ .idle
        ∧ engineCycle { s.eng with ovr := true } s = .next u)
    ∨ (∃ r w, portAction s = .write r w ∧ engineCycle (s.eng.writeReg r w) s = .next u)
    ∨ (portAction s = .quiet ∧ engineCycle s.eng s = .next u) := by
  unfold portCycle at h
  split at h
  · rename_i hr
    refine .inl ⟨?_, by simpa using h.symm⟩
    by_contra hn
    simp only [portAction, hn] at hr
    cases hq : s.env.hostQ with
    | nil => simp [hq] at hr
    | cons op q =>
      cases op <;> simp [hq, hostAction] at hr
      split at hr <;> cases hr
  · rename_i w hw
    obtain ⟨start, hs, hstart⟩ := commandCycle_eq_commandWrite w s
    rw [hs] at h
    obtain ⟨hp, hc, ht⟩ | ⟨hp, hc, ht⟩ | ⟨hp, ht⟩ := commandWrite_cases h
    · cases hd : decode w with
      | none => simp [check, hd] at hc
      | some i =>
        refine .inr (.inl ⟨w, i, hw, hp, hd, ?_, ?_⟩)
        · simpa [check, hd] using hc
        · rw [ht, hstart i hd]
    · exact .inr (.inr (.inl ⟨w, hw, hp, hc, ht⟩))
    · exact .inr (.inr (.inr (.inl ⟨w, hw, hp, ht⟩)))
  · rename_i r w hw
    exact .inr (.inr (.inr (.inr (.inl ⟨r, w, hw, h⟩))))
  · rename_i hw
    exact .inr (.inr (.inr (.inr (.inr ⟨hw, h⟩))))

/-! ### A host write to a register other than CMD -/

/-- A host write changes OVR, CONFIG and the text words only (R44). -/
theorem Engine.writeReg_eq (r : Reg) (w : Word) (e : Engine) :
    e.writeReg r w = { e with
      ovr := (e.writeReg r w).ovr, config := (e.writeReg r w).config, text0 := (e.writeReg r w).text0,
      text1 := (e.writeReg r w).text1, text2 := (e.writeReg r w).text2, text3 := (e.writeReg r w).text3 } := by
  cases r <;> simp only [Engine.writeReg, Engine.guardedWrite] <;> (try split) <;> rfl

/-- While BUSY, a host write changes OVR only (R56). -/
theorem Engine.writeReg_busy {e : Engine} (r : Reg) (w : Word) (h : e.phase ≠ .idle) :
    e.writeReg r w = { e with ovr := (e.writeReg r w).ovr } := by
  have hb := (Engine.busy_eq_true_iff e).mpr h
  cases r <;> simp only [Engine.writeReg, Engine.guardedWrite, hb] <;> (try split) <;> simp_all

end Sys2Proof.Machine
end

