-- ==== Sys2Proof/Laws/PerInstr.lean ====
section
/-! SUPPORT. Statements per instruction. EncodeRow: the word of a well-formed command matches its own row of the
opcode map (30_encoding.md R66). -/

namespace Sys2Proof.Laws.EncodeRow

/-- The word of a well-formed command matches a row of the map that names the command (R66). -/
def Statement (i : Instr) : Prop :=
  i.wf = true → ∃ r ∈ opcodeMap, r.op = i.op ∧ r.selects (encode i) = true

/-- A word of format FL matches any row whose mask clears its operand bits (R63, R66). -/
theorem selects_encodeFL (o : Op) (op : BitVec 4) (line arg : Nat) :
    OpRow.selects ⟨o, opWord op, 0xFFFFFC00#32⟩ (encodeFL op line arg) = true := by
  simp only [OpRow.selects, beq_iff_eq, encodeFL, opWord]
  generalize BitVec.ofNat 2 line = x
  generalize BitVec.ofNat 8 arg = y
  apply BitVec.eq_of_getLsbD_eq
  intro i hi
  have hm : (0xFFFFFC00#32).getLsbD i = decide (10 ≤ i) := by
    revert hi; revert i; decide
  rw [BitVec.getLsbD_and, hm]
  simp only [BitVec.getLsbD_or, BitVec.getLsbD_shiftLeft, BitVec.getLsbD_setWidth, hi, decide_true, Bool.true_and]
  by_cases h : 10 ≤ i
  · simp [h, BitVec.getLsbD_of_ge y i (by omega), BitVec.getLsbD_of_ge x (i - 8) (by omega)]
  · have h' : i < 12 := by omega
    simp [h, h']

theorem init : Statement .init := by
  intro _; exact ⟨⟨.init, 0x00001000#32, 0xFFFFFFFF#32⟩, by decide, rfl, by decide⟩

theorem clear : Statement .clear := by
  intro _; exact ⟨⟨.clear, 0x00002000#32, 0xFFFFFFFF#32⟩, by decide, rfl, by decide⟩

theorem setCursor (line col : Nat) : Statement (.setCursor line col) := by
  intro _; exact ⟨⟨.setCursor, 0x00003000#32, 0xFFFFFC00#32⟩, by decide, rfl, selects_encodeFL _ 0x3 line col⟩

theorem writeText (line len : Nat) : Statement (.writeText line len) := by
  intro _; exact ⟨⟨.writeText, 0x00004000#32, 0xFFFFFC00#32⟩, by decide, rfl, selects_encodeFL _ 0x4 line len⟩

theorem writeByte (rs : Bool) (data : Byte) : Statement (.writeByte rs data) := by
  intro _
  refine ⟨⟨.writeByte, 0x00005000#32, 0xFFFFFE00#32⟩, by decide, rfl, ?_⟩
  revert rs data; decide

theorem writeNibble (rs : Bool) (v : Nibble) : Statement (.writeNibble rs v) := by
  intro _
  refine ⟨⟨.writeNibble, 0x00006000#32, 0xFFFFFEF0#32⟩, by decide, rfl, ?_⟩
  revert rs v; decide

end Sys2Proof.Laws.EncodeRow
end

