-- ==== Sys2Proof/Laws/Step.lean ====
section
/-! SUPPORT. What a step does to the engine, said once for a cycle without reset, and runs of several steps. -/

namespace Sys2Proof.Machine

/-! ### finish() and the sequencer's cycle, field by field -/

/-- finish() changes PHASE, IDX, RESULT, STATE and CURSOR only (R102, R107). -/
theorem Engine.finish_keeps (t : Tag) (e : Engine) :
    (e.finish t).ml = e.ml ∧ (e.finish t).wcnt = e.wcnt ∧ (e.finish t).ovr = e.ovr ∧ (e.finish t).config = e.config
    ∧ (e.finish t).shadow = e.shadow ∧ (e.finish t).fault = e.fault ∧ (e.finish t).text0 = e.text0
    ∧ (e.finish t).text1 = e.text1 ∧ (e.finish t).text2 = e.text2 ∧ (e.finish t).text3 = e.text3 := by
  cases t <;> (unfold Engine.finish; split <;> simp [Engine.applyTag])

/-- finish() sets STATE and CURSOR as the tag says (R107). -/
theorem Engine.finish_tag (t : Tag) (e : Engine) :
    (e.finish t).ctrl = t.ctrl?.getD e.ctrl ∧ (e.finish t).cursor = t.cursor?.getD e.cursor := by
  cases t <;> (unfold Engine.finish; split <;> simp [Engine.applyTag, Tag.ctrl?, Tag.cursor?])

/-- finish() leaves IDX, or moves it to the next entry, which is then issued (R102). -/
theorem Engine.finish_idx (t : Tag) (e : Engine) :
    (e.finish t).idx = e.idx ∨ ((e.finish t).idx = e.idx + 1 ∧ (e.finish t).phase = .issue) := by
  cases t <;> (unfold Engine.finish; split <;> simp [Engine.applyTag])

/-- The sequencer's cycle never writes OVR, CONFIG, the text words or the micro-list (R102). -/
theorem Engine.cycle_keeps {e e' : Engine} {b : BusIn} (h : e.cycle b = .ok e') :
    e'.ml = e.ml ∧ e'.ovr = e.ovr ∧ e'.config = e.config ∧ e'.text0 = e.text0 ∧ e'.text1 = e.text1
    ∧ e'.text2 = e.text2 ∧ e'.text3 = e.text3 := by
  obtain ⟨-, rfl⟩ | ⟨-, -, rfl⟩ | ⟨-, -, rfl⟩ | ⟨-, rfl⟩ | ⟨x, -, -, -, -, rfl⟩ | ⟨x, -, -, -, -, rfl⟩ | ⟨-, -, rfl⟩
    | ⟨x, -, -, -, rfl⟩ | ⟨-, -, rfl⟩ := Engine.cycle_cases h
  case inr.inr.inr.inr.inr.inl =>
    unfold Engine.doneCycle
    split
    · simp [Engine.finish_keeps]
    · simp
  all_goals simp [Engine.finish_keeps]

/-- The sequencer's cycle does not read OVR (R28). -/
theorem Engine.cycle_ovr (e : Engine) (o : Bool) (b : BusIn) :
    ({ e with ovr := o } : Engine).cycle b = (e.cycle b).map (fun e' => { e' with ovr := o }) := by
  have hf : ∀ (t : Tag) (e : Engine), ({ e with ovr := o } : Engine).finish t = { e.finish t with ovr := o } := by
    intro t e; cases t <;> simp [Engine.finish, Engine.applyTag] <;> split <;> rfl
  unfold Engine.cycle
  cases hp : e.phase <;> cases hx : e.ml.entries[e.idx]? <;> simp [hp, hx] <;> try rfl
  case idle.none => simp [Except.map, hp]
  case idle.some => simp [Except.map, hp]
  case pre.none => unfold Engine.preCycle; simp only; (split; rfl; split <;> simp [Except.map, hp])
  case pre.some => unfold Engine.preCycle; simp only; (split; rfl; split <;> simp [Except.map, hp])
  case wait.some x =>
    unfold Engine.waitCycle Engine.doneCycle
    split; rfl; split
    · simp only; split
      · have := hf x.tag { e with shadow := ⟨x.byte, true⟩ }
        simp only [Except.map]; exact congrArg Except.ok (by simpa [hp] using this)
      · rfl
    · simp [Except.map, hp]
  case post.some x =>
    unfold Engine.postCycle; simp only; split
    · have := hf x.tag { e with wcnt := 0 }
      simp only [Except.map]; exact congrArg Except.ok (by simpa [hp] using this)
    · split <;> simp [Except.map, hp]

/-! ### The port -/

/-- A register's own address reaches it (R46). -/
theorem regOfAddr_hostAddr (p : Params) (r : Reg) : regOfAddr p (hostAddr p r) = some r := by
  cases r <;> simp [regOfAddr, windowOffset, hostAddr, Reg.offset, regAt]

/-- A host write reaches the port as the register's action (R44). -/
theorem HostWrites.action {s : State} {r : Reg} {w : Word} {q : List HostOp} (h : HostWrites s r w q) :
    portAction s = if r = .cmd then .command w else .write r w := by
  obtain ⟨h1, addr, h2, h3⟩ := h
  cases r <;> simp [portAction, h1, h3, hostAction, h2]

/-- After a host write the environment has moved on by one cycle. -/
theorem HostWrites.envNext {s : State} {r : Reg} {w : Word} {q : List HostOp} (h : HostWrites s r w q) :
    envNext s = { cycle := s.env.cycle + 1, hostQ := q, rstQ := s.env.rstQ.tail, busQ := s.env.busQ.tail,
                  rdata := s.env.rdata } := by
  obtain ⟨-, addr, -, h3⟩ := h
  simp [Machine.envNext, hostQNext, rdataNext, h3]

/-- A read at an address that reaches a register, outside reset, returns the register (R41, R46). -/
theorem readData_reg {s : State} {addr : Nat} {r : Reg} (hr : s.env.inReset = false)
    (h : regOfAddr s.params addr = some r) : readData s addr = s.eng.readReg r := by
  unfold regOfAddr at h
  unfold readData
  cases hw : windowOffset s.params addr with
  | none => simp [hw] at h
  | some off =>
    simp only [hw, Option.bind_some] at h
    simp [hr, Engine.readOffset, h]

/-! ### A step -/

/-- With parameters inside the spec a step is the port's cycle, then the environment moves on. -/
theorem step_valid {s : State} (h : s.params.valid = true) : step s = mapNext (endCycle s) (portCycle s) := by
  simp [step, h]

/-- The acceptance engine keeps what R100 does not name. -/
theorem startOf_keeps (p : Params) (i : Instr) (e : Engine) :
    (startOf p i e).ml = build p e i ∧ (startOf p i e).idx = 0 ∧ (startOf p i e).result = .pending
    ∧ (startOf p i e).fault = { e.fault with valid := false } ∧ (startOf p i e).cursor = e.cursor
    ∧ (startOf p i e).shadow = e.shadow ∧ (startOf p i e).ovr = e.ovr ∧ (startOf p i e).config = e.config
    ∧ (startOf p i e).text0 = e.text0 ∧ (startOf p i e).text1 = e.text1 ∧ (startOf p i e).text2 = e.text2
    ∧ (startOf p i e).text3 = e.text3
    ∧ (startOf p i e).ctrl = (if i = .init then .uninitialized else e.ctrl)
    ∧ (startOf p i e).phase = (if 0 < (build p e i).pre then .pre else .issue)
    ∧ (startOf p i e).wcnt = if 0 < (build p e i).pre then (build p e i).pre else e.wcnt := by
  cases i <;> simp [startOf]

/-- Every way a cycle without reset gives a next state: a command accepted or refused while idle, or the sequencer's
cycle of an engine that differs from the one held in OVR, CONFIG and the text words only, and while BUSY in OVR
only. -/
theorem step_noReset_cases {s t : State} (ht : step s = .next t) (hr : s.env.inReset = false) :
    (∃ w i, portAction s = .command w ∧ decode w = some i ∧ s.eng.phase = .idle
      ∧ checkInstr i s.eng.ctrl = .ok ∧ t.eng = startOf s.params i s.eng)
    ∨ (∃ w, portAction s = .command w ∧ s.eng.phase = .idle ∧ check w s.eng.ctrl ≠ .ok
      ∧ t.eng = s.eng.refuse (check w s.eng.ctrl))
    ∨ ∃ e : Engine, e.cycle s.env.busNow = .ok t.eng
      ∧ e = { s.eng with ovr := e.ovr, config := e.config, text0 := e.text0, text1 := e.text1, text2 := e.text2,
                         text3 := e.text3 }
      ∧ (s.eng.phase ≠ .idle → e = { s.eng with ovr := e.ovr }) := by
  obtain ⟨-, u, hu, rfl⟩ := step_next ht
  obtain ⟨hr', rfl⟩ | ⟨w, i, hw, hp, hd, hc, rfl⟩ | ⟨w, hw, hp, hc, rfl⟩ | ⟨w, -, -, hu⟩ | ⟨r, w, -, hu⟩ | ⟨-, hu⟩ :=
    portCycle_cases hu
  · simp [hr] at hr'
  · exact .inl ⟨w, i, hw, hd, hp, hc, rfl⟩
  · exact .inr (.inl ⟨w, hw, hp, hc, rfl⟩)
  all_goals
    obtain ⟨e', he, rfl⟩ := engineCycle_next hu
    refine .inr (.inr ⟨_, he, ?_⟩)
  · exact ⟨rfl, fun _ => rfl⟩
  · exact ⟨Engine.writeReg_eq r w s.eng, fun h => Engine.writeReg_busy r w h⟩
  · exact ⟨rfl, fun _ => rfl⟩

/-! ### Runs -/

/-- One step as a run. -/
theorem run_one (s : State) : Host.Core.run Sys2Proof.core 1 s = step s := by
  have h : Sys2Proof.core.step s = step s := rfl
  simp only [Host.Core.run, h]
  cases step s <;> rfl

/-- A run of `a` steps that gives `t` goes on from `t`. -/
theorem run_add {a : Nat} (b : Nat) {s t : State} (h : Host.Core.run Sys2Proof.core a s = .next t) :
    Host.Core.run Sys2Proof.core (a + b) s = Host.Core.run Sys2Proof.core b t := by
  induction a generalizing s with
  | zero => cases h; rw [Nat.zero_add]
  | succ a ih =>
    rw [Nat.add_right_comm]
    simp only [Host.Core.run] at h ⊢
    cases hs : Sys2Proof.core.step s with
    | next u => rw [hs] at h; exact ih h
    | fault r => rw [hs] at h; cases h
    | refused r => rw [hs] at h; cases h

end Sys2Proof.Machine
end

