-- ==== Sys2Proof/Tests/Slice0.lean ====
section
/-! SUPPORT. Tests of the model against values written in the spec (95_test_vectors.md unless a comment says
otherwise), and for each statement with hypotheses a witness: concrete states and operands that meet them all. -/

namespace Sys2Proof.Tests

open Sys2Proof.Machine

/-! ### Small states -/

/-- A state with the spec's example parameters. -/
def stateOf (e : Engine) (host : List HostOp) (bus : List BusIn) : State :=
  { State.reset with eng := e, env := { Env.start with hostQ := host, busQ := bus } }

/-- An idle engine whose last command ended with OK in the STATE `c`. -/
def idleIn (c : CtrlState) : Engine := { Engine.reset with ctrl := c, result := .ok }

/-- WRITE_NIBBLE 0, 0x3 running, at the given place of its micro-list. -/
def running (phase : Phase) (idx wcnt : Nat) : Engine :=
  { Engine.reset with phase := phase, idx := idx, wcnt := wcnt, result := .pending,
                      ml := nibList Config.defaultParams false 0x3#4 }

/-- `sw reg, w` at the register's own address. -/
def sw (r : Reg) (w : Word) : HostOp := .write (hostAddr Config.defaultParams r) w

/-- The bus agent silent, done, and failed, in one cycle. -/
def silent : BusIn := ⟨false, false⟩
def done : BusIn := ⟨true, false⟩
def failed : BusIn := ⟨true, true⟩

/-- What a register reads in the cycle after the one from `s`. -/
def readAfter (s : State) (r : Reg) : Option Word :=
  match step s with
  | .next t => some (t.eng.readReg r)
  | .fault _ => none
  | .refused _ => none

/-! ### Well-formed terms -/

theorem test_wf_refuses_line_four : (Instr.setCursor 4 0).wf = false ∧ (Instr.writeText 4 0).wf = false := by decide
theorem test_wf_refuses_arg_256 : (Instr.setCursor 0 256).wf = false ∧ (Instr.writeText 0 256).wf = false := by decide
theorem test_wf_admits_field_limits : (Instr.setCursor 3 255).wf = true ∧ (Instr.writeText 3 255).wf = true := by decide

/-! ### Words written out from the formats of 30_encoding.md R61 to R65 -/

theorem test_decode_init : decode 0b00000000000000000001000000000000#32 = some .init := by decide
theorem test_decode_clear : decode 0b00000000000000000010000000000000#32 = some .clear := by decide
/-- OP 3, LINE 01, ARG 00000111. -/
theorem test_decode_setCursor : decode 0b00000000000000000011000100000111#32 = some (.setCursor 1 7) := by decide
/-- OP 4, LINE 01, ARG 00000010. -/
theorem test_decode_writeText : decode 0b00000000000000000100000100000010#32 = some (.writeText 1 2) := by decide
/-- OP 5, RS 1, DATA 01000001. -/
theorem test_decode_writeByte : decode 0b00000000000000000101000101000001#32 = some (.writeByte true 0x41#8) := by decide
/-- OP 6, RS 0, NIB 0011. -/
theorem test_decode_writeNibble : decode 0b00000000000000000110000000000011#32 = some (.writeNibble false 0x3#4) := by decide
/-- The illegal rows of L2-D. -/
theorem test_decode_illegal :
    [0x00000000#32, 0x00007000#32, 0x0000F000#32, 0x00013000#32, 0x00001001#32, 0x00002800#32, 0x00003400#32,
      0x00005200#32, 0x00006010#32].all (fun w => decode w == none) = true := by decide
/-- The examples of R73. -/
theorem test_encode_examples :
    encode (.setCursor 1 0) = 0x00003100#32 ∧ encode (.writeByte true 0x41#8) = 0x00005141#32 := by decide

/-! ### The bit-packer: the table L2-A -/

theorem test_pack_default :
    [pack Config.defaultPins 0x0#4 false false, pack Config.defaultPins 0x3#4 false true,
      pack Config.defaultPins 0x4#4 true false, pack Config.defaultPins 0xF#4 true true]
      = [0x08#8, 0x3C#8, 0x49#8, 0xFD#8] := by decide

/-- The alternative layout of L2-A. -/
def otherPins : PinLayout := { rs := 4, rw := 5, en := 6, bl := 7, d0 := 0, d1 := 1, d2 := 2, d3 := 3 }

theorem test_pack_alternative :
    [pack otherPins 0x0#4 false false, pack otherPins 0x3#4 false true, pack otherPins 0x4#4 true false,
      pack otherPins 0xF#4 true true] = [0x80#8, 0xC3#8, 0x94#8, 0xDF#8] := by decide

/-! ### The commands -/

/-- L2-B: bytes and post-delays of WRITE_NIBBLE 0, 0x3. -/
theorem test_writeNibble_list :
    (nibList Config.defaultParams false 0x3#4).entries.map (fun x => (x.byte, x.delay))
      = [(0x38#8, 0), (0x3C#8, 1), (0x38#8, 100)] := by decide
/-- L2-D: STATUS after the word 0x00006003 in STATE 0. -/
theorem test_writeNibble_status :
    readAfter (stateOf Engine.reset [sw .cmd 0x00006003#32] [silent]) .status = some 0x00000071#32 := by decide
/-- L2-C: WRITE_BYTE 0, 0x02 (HOME). -/
theorem test_writeByte_home :
    (byteList Config.defaultParams false 0x02#8).entries.map (fun x => (x.byte, x.delay))
      = [(0x08#8, 0), (0x0C#8, 1), (0x08#8, 100), (0x28#8, 0), (0x2C#8, 1), (0x28#8, 2100)] := by decide
/-- L2-C: WRITE_BYTE 1, 0x02 takes no extended wait. -/
theorem test_writeByte_data :
    (byteList Config.defaultParams true 0x02#8).entries.map (fun x => (x.byte, x.delay))
      = [(0x09#8, 0), (0x0D#8, 1), (0x09#8, 100), (0x29#8, 0), (0x2D#8, 1), (0x29#8, 100)] := by decide
/-- P6: SET_CURSOR 0, 200 sends 0x8F, and its tag sets CURSOR to (0, 15). -/
theorem test_setCursor_clamp :
    (cursorList Config.defaultParams 0 200).entries.map Entry.byte = [0x88#8, 0x8C#8, 0x88#8, 0xF8#8, 0xFC#8, 0xF8#8]
    ∧ (cursorList Config.defaultParams 0 200).entries.getLast?.map Entry.tag = some (.cursor 0 15) := by decide
/-- L2-D: 0x00003200 in STATE 0 and in STATE 5. -/
theorem test_setCursor_priority :
    readAfter (stateOf Engine.reset [sw .cmd 0x00003200#32] [silent]) .status = some 0x00000030#32
    ∧ readAfter (stateOf (idleIn .ready) [sw .cmd 0x00003200#32] [silent]) .status = some 0x0000002A#32 := by decide
/-- L2-F: WRITE_TEXT 1, 1 with TEXT0 = 0x00006948 sends 0xC0, 0x48 and then spaces. -/
theorem test_writeText_cut :
    (({ Engine.reset with text0 := 0x00006948#32 } : Engine).textChars 1).take 3 = [0x48#8, 0x20#8, 0x20#8]
    ∧ ((textList Config.defaultParams 1 []).entries.map Entry.byte).take 3 = [0xC8#8, 0xCC#8, 0xC8#8] := by decide
/-- L2-D: 0x00004300 in STATE 5. -/
theorem test_writeText_range :
    readAfter (stateOf (idleIn .ready) [sw .cmd 0x00004300#32] [silent]) .status = some 0x0000002A#32 := by decide
/-- R151: bytes and post-delays of CLEAR. -/
theorem test_clear_list :
    (clearList Config.defaultParams).entries.map (fun x => (x.byte, x.delay))
      = [(0x08#8, 0), (0x0C#8, 1), (0x08#8, 100), (0x18#8, 0), (0x1C#8, 1), (0x18#8, 2100)] := by decide
/-- L2-D: CLEAR in STATE 0. -/
theorem test_clear_gate :
    readAfter (stateOf Engine.reset [sw .cmd 0x00002000#32] [silent]) .status = some 0x00000030#32 := by decide
/-- L2-F: INIT's writes 18 to 23 for CONFIG = 1, and P1's post-delay of its third write. -/
theorem test_init_list :
    (((initList Config.defaultParams ⟨true, false⟩).entries.drop 18).take 6).map Entry.byte
      = [0x08#8, 0x0C#8, 0x08#8, 0xD8#8, 0xDC#8, 0xD8#8]
    ∧ (initList Config.defaultParams ⟨true, false⟩).entries[2]?.map Entry.delay = some 150 := by decide
/-- L2-D: INIT in STATE 5. -/
theorem test_init_status :
    readAfter (stateOf (idleIn .ready) [sw .cmd 0x00001000#32] [silent]) .status = some 0x00000071#32 := by decide

/-! ### Errors, overrun, reset, parameters -/

/-- L2-E2: WRITE_NIBBLE 0, 0x3 with write 1 failing. -/
theorem test_abort :
    [Reg.status, .fault, .shadow].map (readAfter (stateOf { running .wait 1 0 with shadow := ⟨0x38#8, true⟩ } [] [failed]))
      = [some 0x00000010#32, some 0x0001013C#32, some 0x00000038#32] := by decide
/-- P5 and L2-E5: a dropped command, then STATUS written with 0x80 and with 0x7F. -/
theorem test_overrun :
    readAfter (stateOf (running .pre 0 9) [sw .cmd 0x00002000#32] [silent]) .status = some 0x000000F1#32
    ∧ readAfter (stateOf { running .pre 0 9 with ovr := true } [sw .status 0x80#32] [silent]) .status = some 0x71#32
    ∧ readAfter (stateOf { running .pre 0 9 with ovr := true } [sw .status 0x7F#32] [silent]) .status = some 0xF1#32 := by
  decide
/-- L2-H: a reset cycle. -/
theorem test_reset_cycle :
    readAfter { State.reset with eng := running .wait 1 0, env := { Env.start with rstQ := [false] } } .status
      = some 0x00000060#32 := by decide
/-- 00_scope.md R9: the counts at 1 MHz. -/
theorem test_counts_at_one_megahertz :
    [1, 100, 2000, 15000, 150, 0].map (fun us => minCycles us 1000000) = [1, 100, 2000, 15000, 150, 0] := by decide
/-- 93_implementation_defined.md U8: N_SETTLE one below its minimum. -/
theorem test_short_settle_refused :
    ({ Config.defaultParams with nSettle := 99 } : Params).valid = false := by decide
/-- 30_encoding.md R74 and 20_memory.md R47: text "Hi". -/
theorem test_text_packing :
    (assembleLine Config.defaultParams (.text [0x48#8, 0x69#8])).head? = some (.write 0x20 0x00006948#32) := by decide

/-! ### Witnesses: encodings and the check -/

theorem witness_DecodeEncodeAgree : (Instr.setCursor 3 255).wf = true ∧ (Instr.writeText 3 255).wf = true := by decide
/-- Also for the clause of LegalWordsAreTheRows about a decoded word. -/
theorem witness_EncodeDecodeAgree : decode 0x000033FF#32 = some (.setCursor 3 255) := by decide
/-- One word for each code of the check. -/
theorem witness_CheckPriority :
    decode 0x00003C00#32 = none ∧ opField 0x00003200#32 = 3 ∧ CtrlState.entryModeSet ≠ .ready
    ∧ 1 < ((0x00003200#32).extractLsb' 8 2).toNat ∧ ¬ 1 < ((0x00003100#32).extractLsb' 8 2).toNat := by decide
/-- Also for NibbleIsOneEnablePulse, EachNibbleLatchesOnce and InitDecodesToItsSequence, which assume the same of a
parameter set's layout. -/
theorem witness_PackPlacesEachSignal : otherPins.valid = true ∧ Config.defaultPins.valid = true := by decide
theorem witness_TextIsCutAndPadded : (0 : Nat) < 16 ∧ (15 : Nat) < 16 := by decide
theorem witness_MicroListTotals : (0 : Nat) < 2 ∧ (1 : Nat) < 2 := by decide

/-! ### Witnesses: host writes -/

/-- In the state `s` a host write to the register's own address reaches it. -/
theorem hostWrites_of (s : State) (r : Reg) (w : Word) (q : List HostOp) (hr : s.env.inReset = false)
    (hp : s.params = Config.defaultParams) (h : s.env.hostQ = sw r w :: q) : HostWrites s r w q := by
  refine ⟨hr, hostAddr s.params r, ?_, by rw [h, hp]; rfl⟩
  rw [hp]
  cases r <;> decide

/-- An idle engine, and the host writing `w` to `r`. -/
def idleWrite (c : CtrlState) (r : Reg) (w : Word) : State := stateOf (idleIn c) [sw r w] [silent]

/-- A command in POST, and the host writing `w` to `r`. -/
def busyWrite (r : Reg) (w : Word) : State := stateOf (running .post 1 1) [sw r w] [silent]

theorem witness_IllegalWordsOnlyRecordTheCode :
    (idleWrite .ready .cmd 0x00007000#32).params.valid = true ∧ (idleWrite .ready .cmd 0x00007000#32).eng.phase = .idle
    ∧ HostWrites (idleWrite .ready .cmd 0x00007000#32) .cmd 0x00007000#32 [] ∧ decode 0x00007000#32 = none :=
  ⟨by decide, rfl, hostWrites_of _ _ _ _ rfl rfl rfl, by decide⟩

/-- A refused, an accepted and a dropped word. -/
theorem witness_WordAtCmdIsAcceptedOrRefused :
    (idleWrite .uninitialized .cmd 0x00002000#32).params.valid = true
    ∧ HostWrites (idleWrite .uninitialized .cmd 0x00002000#32) .cmd 0x00002000#32 []
    ∧ check 0x00002000#32 .uninitialized ≠ .ok ∧ (idleWrite .ready .cmd 0x00002000#32).eng.busy = false
    ∧ HostWrites (idleWrite .ready .cmd 0x00002000#32) .cmd 0x00002000#32 [] ∧ check 0x00002000#32 .ready = .ok
    ∧ HostWrites (busyWrite .cmd 0x00002000#32) .cmd 0x00002000#32 [] ∧ (busyWrite .cmd 0x00002000#32).eng.busy = true :=
  ⟨by decide, hostWrites_of _ _ _ _ rfl rfl rfl, by decide, by decide, hostWrites_of _ _ _ _ rfl rfl rfl, by decide,
    hostWrites_of _ _ _ _ rfl rfl rfl, by decide⟩

theorem witness_StepRunsTheDecodedCommand :
    (idleWrite .ready .cmd 0x00003107#32).params.valid = true
    ∧ HostWrites (idleWrite .ready .cmd 0x00003107#32) .cmd 0x00003107#32 []
    ∧ decode 0x00003107#32 = some (.setCursor 1 7) :=
  ⟨by decide, hostWrites_of _ _ _ _ rfl rfl rfl, by decide⟩

/-- A dropped write to CONFIG, and a write to STATUS. -/
theorem witness_WritesWhileBusyAreDropped :
    (busyWrite .config 3#32).params.valid = true ∧ (busyWrite .config 3#32).eng.busy = true
    ∧ HostWrites (busyWrite .config 3#32) .config 3#32 [] ∧ HostWrites (busyWrite .status 0x80#32) .status 0x80#32 [] :=
  ⟨by decide, by decide, hostWrites_of _ _ _ _ rfl rfl rfl, hostWrites_of _ _ _ _ rfl rfl rfl⟩

theorem witness_WritesWhileIdleStore :
    (idleWrite .ready .text3 5#32).params.valid = true ∧ (idleWrite .ready .text3 5#32).eng.phase = .idle
    ∧ HostWrites (idleWrite .ready .text3 5#32) .text3 5#32 [] ∧ Reg.text3 ≠ .cmd :=
  ⟨by decide, rfl, hostWrites_of _ _ _ _ rfl rfl rfl, by decide⟩

/-! ### Witnesses: commands in an idle engine -/

/-- SetCursorIsAccepted, WriteTextIsAccepted (LINE 0 and 1), ClearIsAccepted. -/
theorem witness_acceptance_in_ready :
    (stateOf (idleIn .ready) [] []).eng.phase = .idle ∧ (stateOf (idleIn .ready) [] []).eng.ctrl = .ready
    ∧ (stateOf (idleIn .ready) [] []).params.valid = true ∧ (0 : Nat) < 2 ∧ (1 : Nat) < 2 := by decide
/-- WriteNibbleIsAccepted, WriteByteIsAccepted, InitIsAccepted. -/
theorem witness_acceptance_in_any_state :
    (stateOf (idleIn .uninitialized) [] []).eng.phase = .idle ∧ State.reset.params.valid = true := by decide
theorem witness_DisplayCommandsNeedReady :
    (stateOf (idleIn .entryModeSet) [] []).eng.phase = .idle ∧ (stateOf (idleIn .entryModeSet) [] []).eng.ctrl ≠ .ready
    ∧ Instr.clear.wf = true ∧ (Instr.setCursor 3 255).wf = true ∧ (Instr.writeText 3 255).wf = true := by
  decide
theorem witness_LineOutOfRangeIsRefused :
    (stateOf (idleIn .ready) [] []).eng.phase = .idle ∧ (stateOf (idleIn .ready) [] []).eng.ctrl = .ready
    ∧ 1 < (2 : Nat) ∧ (2 : Nat) < 4 ∧ 1 < (3 : Nat) ∧ (3 : Nat) < 4 ∧ (255 : Nat) < 256 := by decide
theorem witness_CommandWhileBusyIsDropped : (stateOf (running .wait 2 0) [] [silent]).eng.busy = true := by decide
theorem witness_CommandFrameWhileIdle :
    ∃ t, exec (.writeNibble true 0xF#4) (stateOf (idleIn .ready) [] []) = .next t := ⟨_, rfl⟩

/-! ### Witnesses: states that meet the invariant -/

theorem inv_idle (c : CtrlState) (host : List HostOp) (bus : List BusIn) : (stateOf (idleIn c) host bus).Inv := by
  constructor <;> simp [stateOf, idleIn, Engine.reset]

/-- The STATE tags of WRITE_NIBBLE's list: none. -/
theorem no_state_tags : ¬ ∃ x ∈ (running .issue 0 0).ml.entries, x.tag.ctrl? ≠ none := by decide

theorem inv_issue (host : List HostOp) (bus : List BusIn) : (stateOf (running .issue 2 0) host bus).Inv :=
  (⟨by decide, by decide, by decide, by decide, by decide, by decide, by decide,
      fun _ h => absurd h no_state_tags⟩ :
    EngineInv Config.defaultParams (running .issue 2 0))

theorem inv_wait (host : List HostOp) (bus : List BusIn) : (stateOf (running .wait 2 0) host bus).Inv :=
  (⟨by decide, by decide, by decide, by decide, by decide, by decide, by decide,
      fun _ h => absurd h no_state_tags⟩ :
    EngineInv Config.defaultParams (running .wait 2 0))

theorem inv_post (host : List HostOp) (bus : List BusIn) : (stateOf (running .post 2 100) host bus).Inv :=
  (⟨by decide, by decide, by decide, by decide, by decide, by decide, by decide,
      fun _ h => absurd h no_state_tags⟩ :
    EngineInv Config.defaultParams (running .post 2 100))

/-- The first and the last byte address of a register. -/
theorem witness_RegisterReads :
    (stateOf (idleIn .ready) [.read 0x14] []).Inv ∧ (stateOf (idleIn .ready) [.read 0x14] []).params.valid = true
    ∧ (stateOf (idleIn .ready) [.read 0x14] []).env.inReset = false
    ∧ regOfAddr Config.defaultParams 0x14 = some .fault ∧ regOfAddr Config.defaultParams 0x17 = some .fault
    ∧ regOfAddr Config.defaultParams 0x00 = some .cmd ∧ regOfAddr Config.defaultParams 0x2F = some .text3 :=
  ⟨inv_idle _ _ _, by decide, by decide, by decide, by decide, by decide, by decide⟩

theorem witness_ReadsHaveNoSideEffect :
    ∃ t, step (stateOf (running .issue 2 0) [.read 0x04] [silent]) = .next t := ⟨_, rfl⟩

/-- The first and the last offset of the window, and a neighbour of each reserved range. -/
theorem witness_WindowAddresses :
    [0, 3, 23, 24, 31, 32, 47, 48, 63].map (regOfAddr Config.defaultParams)
      = [some .cmd, some .cmd, some .fault, none, none, some .text0, some .text3, none, none] := by decide

/-- A read and a write at the first and last reserved offsets. -/
theorem witness_ReservedOffsets :
    (stateOf (running .post 2 100) [.read 24] [silent]).Inv ∧ (stateOf (running .post 2 100) [.write 63 1#32] [silent]).Inv
    ∧ (stateOf (running .post 2 100) [.read 24] [silent]).params.valid = true
    ∧ 24 / 4 = 6 ∧ 31 / 4 = 7 ∧ (48 ≤ 48 ∧ 48 < 64) ∧ (48 ≤ 63 ∧ 63 < 64) :=
  ⟨inv_post _ _, inv_post _ _, by decide, by decide, by decide, by decide, by decide⟩

/-- BUSY 1 and BUSY 0. -/
theorem witness_WaitIdleRepeatsWhileBusy :
    (stateOf (running .wait 2 0) [.waitIdle] [silent]).Inv ∧ (stateOf (running .wait 2 0) [.waitIdle] [silent]).eng.busy = true
    ∧ (stateOf (idleIn .ready) [.waitIdle] [silent]).Inv ∧ (stateOf (idleIn .ready) [.waitIdle] [silent]).eng.busy = false
    ∧ State.reset.params.valid = true :=
  ⟨inv_wait _ _, by decide, inv_idle _ _ _, by decide, by decide⟩

theorem witness_ResetCycleRestoresEverything :
    ({ State.reset with eng := running .post 1 1, env := { Env.start with rstQ := [false] } } : State).env.inReset = true
    ∧ State.reset.params.valid = true := by decide

theorem witness_IdleUntilCommanded :
    (∃ t, step (idleWrite .ready .status 0x80#32) = .next t) ∧ ∀ w, portAction (idleWrite .ready .status 0x80#32) ≠ .command w := by
  refine ⟨⟨_, rfl⟩, fun w h => ?_⟩
  have : portAction (idleWrite .ready .status 0x80#32) = .write .status 0x80#32 := by decide
  rw [this] at h
  cases h

/-! ### Witnesses: the sequencer -/

/-- Every clause: idle; PRE at 1 and at 2; ISSUE; WAIT failed, done with delay 0, done with a delay, silent; POST at
1 and at 2. -/
theorem witness_SequencerCycle :
    portAction (stateOf (running .pre 0 1) [] [silent]) = .quiet ∧ State.reset.params.valid = true
    ∧ (running .pre 0 1).wcnt = 1 ∧ 1 < (running .pre 0 2).wcnt
    ∧ (running .issue 0 0).ml.entries[0]?.map Entry.delay = some 0
    ∧ (running .wait 1 0).ml.entries[1]?.map Entry.delay = some 1
    ∧ (stateOf (running .wait 0 0) [] [failed]).env.busNow = ⟨true, true⟩
    ∧ (stateOf (running .wait 0 0) [] [done]).env.busNow = ⟨true, false⟩
    ∧ (stateOf (running .wait 0 0) [] [silent]).env.busNow.done = false
    ∧ (running .post 1 1).wcnt = 1 ∧ 1 < (running .post 2 2).wcnt := by decide

/-- The last entry and one before it. -/
theorem witness_FinishAppliesTheTag :
    (running .post 2 1).idx < (running .post 2 1).ml.entries.length
    ∧ (running .post 2 1).idx = (running .post 2 1).ml.entries.length - 1
    ∧ (running .post 1 1).idx < (running .post 1 1).ml.entries.length - 1 := by decide

/-- A failing done in a cycle in which the host writes CMD besides. -/
theorem witness_TransportErrorAborts :
    (stateOf (running .wait 1 0) [sw .cmd 0x1000#32] [failed]).env.inReset = false
    ∧ (running .wait 1 0).ml.entries[1]? = some ⟨0x3C#8, 1, .none⟩
    ∧ (stateOf (running .wait 1 0) [sw .cmd 0x1000#32] [failed]).env.busNow = ⟨true, true⟩
    ∧ State.reset.params.valid = true := by decide

/-- Either disjunct. -/
theorem witness_DoneIsSampledOnlyInWait :
    (running .issue 0 0).phase ≠ .wait ∧ (running .wait 0 0).phase = .wait ∧ silent.done = false
    ∧ (⟨false, true⟩ : BusIn).done = false := by decide

theorem witness_BusPortOutputs :
    busReq (stateOf (running .issue 1 0) [] []) = true ∧ (running .issue 1 0).ml.entries[1]? = some ⟨0x3C#8, 1, .none⟩
    ∧ busReq (stateOf (running .wait 1 0) [] []) = false := by decide

theorem witness_NoTimeoutInWait :
    (stateOf (running .wait 2 0) [sw .cmd 0#32] [silent, ⟨false, true⟩, done]).Inv
    ∧ State.reset.params.valid = true
    ∧ (stateOf (running .wait 2 0) [sw .cmd 0#32] [silent, ⟨false, true⟩, done]).env.busQ
        = [silent, ⟨false, true⟩] ++ [done]
    ∧ (∀ b ∈ [silent, ⟨false, true⟩], b.done = false)
    ∧ noResetFor 2 (stateOf (running .wait 2 0) [sw .cmd 0#32] [silent, ⟨false, true⟩, done]) :=
  ⟨inv_wait _ _, by decide, rfl, by decide, by intro r h; simp [stateOf, Env.start] at h⟩

theorem witness_HostCannotDisturbACommand :
    (busyWrite .text0 1#32).eng.busy = true ∧ (∃ t, step (busyWrite .text0 1#32) = .next t)
    ∧ ∃ u, step { busyWrite .text0 1#32 with env := { (busyWrite .text0 1#32).env with hostQ := [] } } = .next u :=
  ⟨by decide, ⟨_, rfl⟩, ⟨_, rfl⟩⟩

/-! ### Witnesses: invariants and whole-machine rules -/

/-- Also for EveryCycleHasANextState. -/
theorem witness_StepKeepsTheInvariant :
    (stateOf (running .post 2 100) [] [silent]).Inv ∧ (∃ t, step (stateOf (running .post 2 100) [] [silent]) = .next t)
    ∧ State.reset.params.valid = true :=
  ⟨inv_post _ _, ⟨_, rfl⟩, by decide⟩

/-- OperandsFixedWhileBusy, IndexNeverJumps, OverrunFlagRule. -/
theorem witness_busy_step :
    (busyWrite .config 3#32).eng.busy = true ∧ (busyWrite .config 3#32).env.inReset = false
    ∧ ∃ t, step (busyWrite .config 3#32) = .next t := ⟨by decide, by decide, ⟨_, rfl⟩⟩

/-- INIT running in STATE 4, its last write's last POST cycle. -/
def lastOfInit (bus : List BusIn) : State :=
  stateOf { Engine.reset with phase := .post, idx := 41, wcnt := 1, result := .pending, ctrl := .entryModeSet,
                              ml := initList Config.defaultParams ⟨false, false⟩ } [] bus

theorem witness_StateTransitions :
    (lastOfInit [silent]).Inv ∧ ∃ t, step (lastOfInit [silent]) = .next t ∧ t.eng.ctrl ≠ (lastOfInit [silent]).eng.ctrl :=
  ⟨⟨by decide, by decide, by decide, by decide, by decide, by decide, by decide, fun _ _ => ⟨_, rfl⟩⟩,
    ⟨_, rfl, by decide⟩⟩

/-- CLEAR's last POST cycle with CURSOR elsewhere. -/
theorem witness_CursorFollowsTags :
    ∃ t, step (stateOf { Engine.reset with phase := .post, idx := 5, wcnt := 1, result := .pending, ctrl := .ready,
                                           cursor := ⟨1, 7⟩, ml := clearList Config.defaultParams } [] [silent]) = .next t
      ∧ t.eng.cursor ≠ ⟨1, 7⟩ := ⟨_, rfl, by decide⟩

/-- A done, a failing done, and no done. -/
theorem witness_ShadowRule_FaultRegisterRule :
    (stateOf (running .wait 2 0) [] [done]).Inv ∧ (stateOf (running .wait 2 0) [] [done]).env.inReset = false
    ∧ (∃ t, step (stateOf (running .wait 2 0) [] [done]) = .next t)
    ∧ (∃ t, step (stateOf (running .wait 2 0) [] [failed]) = .next t)
    ∧ (∃ t, step (stateOf (running .wait 2 0) [] [silent]) = .next t)
    ∧ ∃ t, step (idleWrite .ready .cmd 0x00006003#32) = .next t ∧ t.eng.phase ≠ .idle :=
  ⟨inv_wait _ _, by decide, ⟨_, rfl⟩, ⟨_, rfl⟩, ⟨_, rfl⟩, ⟨_, rfl, by decide⟩⟩

theorem witness_IssuedBytesKeepBacklightAndWrite :
    (stateOf (running .issue 2 0) [] []).Inv ∧ busReq (stateOf (running .issue 2 0) [] []) = true :=
  ⟨inv_issue _ _, by decide⟩

/-- A failing done, after which the host writes CLEAR and then SET_CURSOR 1, 7. -/
def lockedRun : State :=
  stateOf (running .wait 2 0) [.idle, sw .cmd 0x00002000#32, sw .cmd 0x00003107#32] [failed]

/-- The next cycle, and one later after a cycle in which no INIT completes. -/
theorem witness_FailureLocksDisplayCommands :
    ∃ t u, lockedRun.Inv ∧ lockedRun.env.inReset = false ∧ lockedRun.env.busNow = ⟨true, true⟩
      ∧ step lockedRun = .next t ∧ Host.Core.run Sys2Proof.core 0 t = .next t ∧ NoInitCompletes 0 t
      ∧ HostWrites t .cmd 0x00002000#32 [sw .cmd 0x00003107#32]
      ∧ Host.Core.run Sys2Proof.core 1 t = .next u ∧ NoInitCompletes 1 t ∧ u.eng.busy = false
      ∧ HostWrites u .cmd 0x00003107#32 [] ∧ decode 0x00002000#32 = some .clear
      ∧ decode 0x00003107#32 = some (.setCursor 1 7) := by
  refine ⟨_, _, inv_wait _ _, by decide, by decide, rfl, rfl, fun k hk => absurd hk (Nat.not_lt_zero k),
    hostWrites_of _ _ _ _ rfl rfl rfl, rfl, ?_, by decide, hostWrites_of _ _ _ _ rfl rfl rfl, by decide, by decide⟩
  intro k hk u v hu _ hc
  obtain rfl : k = 0 := by omega
  cases hu
  exact hc.running rfl

theorem witness_IllFormedTermsAreCheckedAlike :
    (stateOf (idleIn .ready) [] []).eng.phase = .idle ∧ (Instr.setCursor 4 0).wf = false
    ∧ (stateOf (idleIn .ready) [] []).eng.ctrl = .ready ∧ 1 < (4 : Nat) ∧ (Instr.writeText 0 256).wf = false
    ∧ (stateOf (idleIn .uninitialized) [] []).eng.ctrl ≠ .ready := by decide

/-! ### Witnesses: a command from acceptance to its end -/

/-- The wires of a bus agent that answers each write one cycle after its request, without error. -/
def quickPins (entries : List Entry) : List BusIn :=
  entries.flatMap (fun x => silent :: done :: List.replicate x.delay silent)

theorem answered_quickPins (entries : List Entry) :
    Answered entries (entries.map (fun _ => 1)) (quickPins entries) := by
  induction entries with
  | nil => exact .nil
  | cons x rest ih =>
    have h := Answered.cons x rest _ silent done [] (List.replicate x.delay silent) _ (by simp) rfl rfl (by simp) ih
    simpa [quickPins] using h

/-- The host writes the word of `i` to CMD in STATE `c`; every write is answered at once. -/
def quickRun (c : CtrlState) (i : Instr) : State :=
  let list := build Config.defaultParams (idleIn c) i
  stateOf (idleIn c) [sw .cmd (encode i)]
    (silent :: (List.replicate list.pre silent ++ (quickPins list.entries ++ [])))

theorem acceptedRun_quickRun (c : CtrlState) (i : Instr) (hwf : i.wf = true) (hc : checkInstr i c = .ok) :
    AcceptedRun (quickRun c i) i [] ((build Config.defaultParams (idleIn c) i).entries.map (fun _ => 1)) silent
      (List.replicate (build Config.defaultParams (idleIn c) i).pre silent)
      (quickPins (build Config.defaultParams (idleIn c) i).entries) [] where
  valid := (by decide : Config.defaultParams.valid = true)
  inv := inv_idle c _ _
  idle := rfl
  wf := hwf
  accepted := hc
  host := hostWrites_of _ _ _ _ rfl rfl rfl
  bus := rfl
  preLength := List.length_replicate
  answered := answered_quickPins _
  noReset := by intro r h; simp [quickRun, stateOf, Env.start] at h

/-- WRITE_TEXT, the longest command, and INIT, the one with a pre-delay (CommandTiming, CommandCompletes,
ExpanderReceivesTheMicroList, InitReachesReady). -/
theorem witness_AcceptedRun :
    (∃ latencies first prePins pins rest,
      AcceptedRun (quickRun .ready (.writeText 1 255)) (.writeText 1 255) [] latencies first prePins pins rest)
    ∧ ∃ latencies first prePins pins rest,
        AcceptedRun (quickRun .uninitialized .init) .init [] latencies first prePins pins rest :=
  ⟨⟨_, _, _, _, _, acceptedRun_quickRun .ready (.writeText 1 255) (by decide) (by decide)⟩,
    ⟨_, _, _, _, _, acceptedRun_quickRun .uninitialized .init (by decide) (by decide)⟩⟩

/-- WRITE_NIBBLE 0, 0x3 with its write 1 failing after one silent WAIT cycle (L2-E2). -/
def failingRun : State :=
  stateOf (idleIn .ready) [sw .cmd (encode (.writeNibble false 0x3#4))]
    (silent :: ([] ++ (quickPins ((nibList Config.defaultParams false 0x3#4).entries.take 1)
      ++ (silent :: ([silent] ++ failed :: [])))))

theorem witness_FailedWriteEndsTheCommand :
    FailingRun failingRun (.writeNibble false 0x3#4) [] 1 [1] silent []
      (quickPins ((nibList Config.defaultParams false 0x3#4).entries.take 1)) silent failed [silent] [] where
  valid := by decide
  inv := inv_idle .ready _ _
  idle := rfl
  wf := rfl
  accepted := rfl
  host := hostWrites_of _ _ _ _ rfl rfl rfl
  inList := by decide
  bus := rfl
  preLength := rfl
  answered := answered_quickPins _
  notDone := by decide
  done := rfl
  failed := rfl
  noReset := by intro r h; simp [failingRun, stateOf, Env.start] at h

end Sys2Proof.Tests
end

section
/-! PROOF. A step with a host write to CMD (40_command_engine.md R100): the port hands the word to the command it
decodes to, and the environment moves on by one cycle (00_scope.md R12). -/

namespace Sys2Proof.Machine

/-- A legal word at CMD runs its command (R66). -/
theorem commandCycle_of_decode {w : Word} {i : Instr} (s : State) (h : decode w = some i) :
    commandCycle w s = exec i s := by
  simp [commandCycle, h]

/-- A host write to CMD hands its word to the engine (R100). -/
theorem HostWrites.portCycle_cmd {s : State} {w : Word} {q : List HostOp} (h : HostWrites s .cmd w q) :
    portCycle s = commandCycle w s := by
  have ha : portAction s = .command w := by simpa using h.action
  simp [portCycle, ha]

/-- What the end of a cycle with a host write does to a state: the write is taken from the host's accesses, and
nothing is read. -/
theorem HostWrites.endCycle {s : State} {r : Reg} {w : Word} {q : List HostOp} (h : HostWrites s r w q) :
    endCycle s = fun t => { t with env :=
      { cycle := s.env.cycle + 1, hostQ := q, rstQ := s.env.rstQ.tail, busQ := s.env.busQ.tail
        rdata := s.env.rdata } } := by
  funext t
  rw [Machine.endCycle, h.envNext]

/-- Settles O25: the port's cycle is `exec` of the decoded command, and the end of the cycle is that of a write. -/
theorem stepRunsTheDecodedCommand : Obligations.StepRunsTheDecodedCommand := by
  intro s w i q hv hw hd
  rw [step_valid hv, hw.portCycle_cmd, commandCycle_of_decode s hd, hw.endCycle]

end Sys2Proof.Machine
end

section
/-! PROOF. What the sequencer's cycle does to IDX, CURSOR, SHADOW and FAULT (40_command_engine.md R102, R106, R107),
and what a step from a busy engine is (20_memory.md R56). -/

namespace Sys2Proof.Machine

/-- A good done either finishes the entry or starts its post-delay (R102). -/
theorem Engine.doneCycle_cases (x : Entry) (e : Engine) :
    (x.delay = 0 ∧ e.doneCycle x = ({ e with shadow := ⟨x.byte, true⟩ } : Engine).finish x.tag)
    ∨ (0 < x.delay ∧ e.doneCycle x = { e with shadow := ⟨x.byte, true⟩, wcnt := x.delay, phase := .post }) := by
  unfold Engine.doneCycle
  split
  · exact .inl ⟨‹_›, rfl⟩
  · exact .inr ⟨by omega, rfl⟩

/-- A good done writes SHADOW with the entry's byte (R31). -/
@[simp] theorem Engine.doneCycle_shadow (x : Entry) (e : Engine) : (e.doneCycle x).shadow = ⟨x.byte, true⟩ := by
  obtain ⟨-, h⟩ | ⟨-, h⟩ := e.doneCycle_cases x <;> simp [h, Engine.finish_keeps]

/-- A good done leaves FAULT as it is (R32). -/
@[simp] theorem Engine.doneCycle_fault (x : Entry) (e : Engine) : (e.doneCycle x).fault = e.fault := by
  obtain ⟨-, h⟩ | ⟨-, h⟩ := e.doneCycle_cases x <;> simp [h, Engine.finish_keeps]

/-- The entry `x` finishes in a cycle with the bus wires `b`: the last POST cycle, or a good done in WAIT with
post-delay 0 (R102). -/
def Engine.Finishes (b : BusIn) (x : Entry) (e : Engine) : Prop :=
  (e.phase = .post ∧ e.wcnt = 1) ∨ (e.phase = .wait ∧ b.done = true ∧ b.err = false ∧ x.delay = 0)

/-- The sequencer's cycle either finishes the current entry, or leaves IDX and CURSOR as they are (R102). -/
theorem Engine.cycle_finishes_or_keeps {e e' : Engine} {b : BusIn} (h : e.cycle b = .ok e') :
    (∃ x sh w, e.ml.entries[e.idx]? = some x ∧ e.Finishes b x
      ∧ e' = ({ e with shadow := sh, wcnt := w } : Engine).finish x.tag)
    ∨ (e'.idx = e.idx ∧ e'.cursor = e.cursor) := by
  obtain ⟨-, rfl⟩ | ⟨-, -, rfl⟩ | ⟨-, -, rfl⟩ | ⟨-, rfl⟩ | ⟨x, -, -, -, -, rfl⟩ | ⟨x, hp, hx, hd, he, rfl⟩ | ⟨-, -, rfl⟩
    | ⟨x, hp, hx, hw, rfl⟩ | ⟨-, -, rfl⟩ := Engine.cycle_cases h
  case inr.inr.inr.inr.inr.inl =>
    obtain ⟨h0, h'⟩ | ⟨-, h'⟩ := e.doneCycle_cases x
    · exact .inl ⟨x, _, _, hx, .inr ⟨hp, hd, he, h0⟩, h'⟩
    · simp [h']
  case inr.inr.inr.inr.inr.inr.inr.inl => exact .inl ⟨x, _, _, hx, .inl ⟨hp, hw⟩, rfl⟩
  all_goals simp

/-- In the sequencer's cycle IDX stays, or goes up by one to an entry that is then issued (R22). -/
theorem Engine.cycle_idx {e e' : Engine} {b : BusIn} (h : e.cycle b = .ok e') :
    e'.idx = e.idx ∨ (e'.idx = e.idx + 1 ∧ e'.phase = .issue) := by
  obtain ⟨x, sh, w, -, -, rfl⟩ | ⟨hi, -⟩ := Engine.cycle_finishes_or_keeps h
  · exact Engine.finish_idx x.tag { e with shadow := sh, wcnt := w }
  · exact .inl hi

/-- In the sequencer's cycle a changed CURSOR is the one named by the tag of the entry that finishes (R30, R107). -/
theorem Engine.cycle_cursor {e e' : Engine} {b : BusIn} (h : e.cycle b = .ok e') (hc : e'.cursor ≠ e.cursor) :
    ∃ x, e.ml.entries[e.idx]? = some x ∧ x.tag.cursor? = some e'.cursor ∧ e.Finishes b x := by
  obtain ⟨x, sh, w, hx, hf, rfl⟩ | ⟨-, hk⟩ := Engine.cycle_finishes_or_keeps h
  · refine ⟨x, hx, ?_, hf⟩
    obtain ⟨-, htag⟩ := Engine.finish_tag x.tag { e with shadow := sh, wcnt := w }
    rw [htag] at hc ⊢
    cases ht : x.tag.cursor? with
    | none => simp [ht] at hc
    | some k => rfl
  · exact absurd hk hc

/-- SHADOW after the sequencer's cycle: written by a good done, invalidated by a failing one, else kept (R31). -/
theorem Engine.cycle_shadow {e e' : Engine} {b : BusIn} (h : e.cycle b = .ok e') :
    (∃ x, e.phase = .wait ∧ b.done = true ∧ b.err = false ∧ e.ml.entries[e.idx]? = some x
      ∧ e'.shadow = ⟨x.byte, true⟩)
    ∨ (e.phase = .wait ∧ b.done = true ∧ b.err = true ∧ e'.shadow = ⟨e.shadow.last, false⟩)
    ∨ ((e.phase = .wait → b.done = false) ∧ e'.shadow = e.shadow) := by
  obtain ⟨hp, rfl⟩ | ⟨hp, -, rfl⟩ | ⟨hp, -, rfl⟩ | ⟨hp, rfl⟩ | ⟨x, hp, -, hd, he, rfl⟩ | ⟨x, hp, hx, hd, he, rfl⟩
    | ⟨-, hd, rfl⟩ | ⟨x, hp, -, -, rfl⟩ | ⟨hp, -, rfl⟩ := Engine.cycle_cases h
  case inr.inr.inr.inr.inl => exact .inr (.inl ⟨hp, hd, he, rfl⟩)
  case inr.inr.inr.inr.inr.inl => exact .inl ⟨x, hp, hd, he, hx, e.doneCycle_shadow x⟩
  all_goals refine .inr (.inr ⟨by simp [*], ?_⟩)
  all_goals simp [Engine.finish_keeps]

/-- FAULT after the sequencer's cycle: written by a failing done, else kept (R32, R106). -/
theorem Engine.cycle_fault {e e' : Engine} {b : BusIn} (h : e.cycle b = .ok e') :
    (∃ x, e.phase = .wait ∧ b.done = true ∧ b.err = true ∧ e.ml.entries[e.idx]? = some x
      ∧ e'.fault = ⟨x.byte, BitVec.ofNat 8 e.idx, true⟩)
    ∨ ((e.phase = .wait → b.done = true → b.err = false) ∧ e'.fault = e.fault) := by
  obtain ⟨hp, rfl⟩ | ⟨hp, -, rfl⟩ | ⟨hp, -, rfl⟩ | ⟨hp, rfl⟩ | ⟨x, hp, hx, hd, he, rfl⟩ | ⟨x, -, -, -, he, rfl⟩
    | ⟨-, hd, rfl⟩ | ⟨x, hp, -, -, rfl⟩ | ⟨hp, -, rfl⟩ := Engine.cycle_cases h
  case inr.inr.inr.inr.inl => exact .inl ⟨x, hp, hd, he, hx, rfl⟩
  all_goals refine .inr ⟨by simp [*], ?_⟩
  all_goals simp [Engine.finish_keeps]

/-- An accepted command leaves the engine busy (R100). -/
theorem startOf_phase_ne_idle (p : Params) (i : Instr) (e : Engine) : (startOf p i e).phase ≠ .idle := by
  obtain ⟨-, -, -, -, -, -, -, -, -, -, -, -, -, hp, -⟩ := startOf_keeps p i e
  rw [hp]
  split <;> simp

/-! ### A step -/

/-- No step writes the parameters (R8). -/
theorem step_params {s t : State} (h : step s = .next t) : t.params = s.params := by
  obtain ⟨-, u, hu, rfl⟩ := step_next h
  rw [endCycle_params]
  obtain ⟨-, rfl⟩ | ⟨-, -, -, -, -, -, rfl⟩ | ⟨-, -, -, -, rfl⟩ | ⟨-, -, -, hc⟩ | ⟨r, w, -, hc⟩ | ⟨-, hc⟩ :=
    portCycle_cases hu
  iterate 3 rfl
  all_goals
    obtain ⟨e', -, rfl⟩ := engineCycle_next hc
    rfl

/-- After a step with rst_n = 0 the engine is the reset engine (R200). -/
theorem step_inReset {s t : State} (h : step s = .next t) (hr : s.env.inReset = true) : t.eng = Engine.reset := by
  obtain ⟨-, u, hu, rfl⟩ := step_next h
  have hp : portCycle s = .next (resetCycle s) := by simp [portCycle, portAction, hr]
  rw [hp] at hu
  cases hu
  rfl

/-- A step from a busy engine, without reset, is the sequencer's cycle, OVR apart (R56). -/
theorem step_busy {s t : State} (h : step s = .next t) (hr : s.env.inReset = false) (hb : s.eng.phase ≠ .idle) :
    ∃ o, ({ s.eng with ovr := o } : Engine).cycle s.env.busNow = .ok t.eng := by
  obtain ⟨w, i, -, -, hp, -⟩ | ⟨w, -, hp, -⟩ | ⟨e, he, -, hbusy⟩ := step_noReset_cases h hr
  · exact absurd hp hb
  · exact absurd hp hb
  · exact ⟨e.ovr, hbusy hb ▸ he⟩

/-- A step from an idle engine, without reset, keeps CURSOR and SHADOW; FAULT loses FVALID when the step accepts a
command, and is kept when the engine stays idle (R30 to R32). -/
theorem step_idle {s t : State} (h : step s = .next t) (hr : s.env.inReset = false) (hp : s.eng.phase = .idle) :
    t.eng.cursor = s.eng.cursor ∧ t.eng.shadow = s.eng.shadow
    ∧ ((t.eng.phase ≠ .idle ∧ t.eng.fault = { s.eng.fault with valid := false })
      ∨ (t.eng.phase = .idle ∧ t.eng.fault = s.eng.fault)) := by
  obtain ⟨w, i, -, -, -, -, he⟩ | ⟨w, -, -, -, he⟩ | ⟨e, he, hreg, -⟩ := step_noReset_cases h hr
  · obtain ⟨-, -, -, hf, hcur, hsh, -⟩ := startOf_keeps s.params i s.eng
    rw [he]
    exact ⟨hcur, hsh, .inl ⟨startOf_phase_ne_idle s.params i s.eng, hf⟩⟩
  · simp [he, hp]
  · have hpe : e.phase = .idle := by rw [hreg]; exact hp
    rw [Engine.cycle_idle _ hpe] at he
    cases he
    rw [hreg]
    exact ⟨rfl, rfl, .inr ⟨hp, rfl⟩⟩

end Sys2Proof.Machine
end

section
/-! PROOF. The invariant of the engine (10_state.md R22, R36; 41_nibble.md R125; 43_controller.md R154): it holds
after reset, and every step keeps it. -/

namespace Sys2Proof.Machine

/-! ### The micro-lists of the commands -/

/-- Every micro-list has an entry (R101). -/
theorem length_build_pos (p : Params) (e : Engine) (i : Instr) : 0 < (build p e i).entries.length := by
  cases i <;> simp [build, initList, clearList, cursorList, textList, byteList, nibList, length_nib,
    length_byteEntries]

/-- WRITE_TEXT always writes 16 characters (R150). -/
theorem length_textChars (e : Engine) (len : Nat) : (e.textChars len).length = 16 := by
  simp [Engine.textChars, Config.textCap]

/-- The longest micro-list has 102 entries: WRITE_TEXT's (R22). -/
theorem length_build_le (p : Params) (e : Engine) (i : Instr) : (build p e i).entries.length ≤ 102 := by
  cases i with
  | writeText line len =>
    simp only [build, textList, List.length_append, length_byteEntries, length_chars, length_textChars]
    decide
  | _ => simp [build, initList, clearList, cursorList, byteList, nibList, length_nib, length_byteEntries]

/-- Every byte of every micro-list is the bit-packer's (R125). -/
theorem wiredByte_build {p : Params} (h : p.pins.valid = true) (e : Engine) (i : Instr) :
    ∀ x ∈ (build p e i).entries, wiredByte p.pins x.byte = true := by
  intro x hx
  cases i with
  | init =>
    simp only [build, initList, List.mem_append] at hx
    obtain (((((((hx | hx) | hx) | hx) | hx) | hx) | hx) | hx) | hx := hx
    · exact wiredByte_nib h _ _ _ _ x hx
    · exact wiredByte_nib h _ _ _ _ x hx
    · exact wiredByte_nib h _ _ _ _ x hx
    · exact wiredByte_nib h _ _ _ _ x hx
    all_goals exact wiredByte_byteEntries h _ _ _ x hx
  | clear => exact wiredByte_byteEntries h _ _ _ x hx
  | setCursor line col => exact wiredByte_byteEntries h _ _ _ x hx
  | writeText line len =>
    obtain hx | hx := List.mem_append.mp hx
    · exact wiredByte_byteEntries h _ _ _ x hx
    · obtain ⟨c, -, hx⟩ := List.mem_flatMap.mp hx
      exact wiredByte_byteEntries h c true _ x hx
  | writeByte rs b => exact wiredByte_byteEntries h _ _ _ x hx
  | writeNibble rs v => exact wiredByte_nib h _ _ _ _ x hx

/-- INIT's STATE tags go through the values from Uninitialized to Ready (R154). -/
theorem tagsAscend_initList (p : Params) (c : DisplayConfig) :
    tagsAscend .uninitialized (initList p c).entries = true := rfl

/-- An accepted command's STATE tags follow the STATE it starts in (R145, R154). -/
theorem tagsAscend_startOf (p : Params) (i : Instr) (e : Engine) :
    tagsAscend (startOf p i e).ctrl (build p e i).entries = true := by
  by_cases hi : i = .init
  · subst hi; exact tagsAscend_initList p e.config
  · exact tagsAscend_of_none _ (ctrl?_build p e hi)

/-- After an entry the tags to come follow the STATE its tag leaves (R107). -/
theorem tagsAscend_tail {c : CtrlState} {x : Entry} {l : List Entry} (h : tagsAscend c (x :: l) = true) :
    tagsAscend (x.tag.ctrl?.getD c) l = true := by
  cases ht : x.tag.ctrl? with
  | none => simpa [tagsAscend, ht] using h
  | some c' =>
    simp only [tagsAscend, ht, Bool.and_eq_true] at h
    exact h.2

/-! ### The invariant under each change of the engine -/

variable {p : Params} {e e' : Engine}

/-- An idle engine meets the invariant when it holds no delay, no pending result and a micro-list of the usual
length and bytes. -/
theorem engineInv_of_idle (hp : e.phase = .idle) (hw : e.wcnt = 0) (hr : e.result ≠ .pending)
    (hl : e.ml.entries.length ≤ 102) (hb : ∀ x ∈ e.ml.entries, wiredByte p.pins x.byte = true) : EngineInv p e where
  pending_iff_busy := by simp [hp, hr]
  wcnt_zero _ := hw
  wcnt_pos := by simp [hp]
  idx_lt := by simp [hp]
  length_le := hl
  wired := hb
  tags_ascend := by simp [hp]
  state_tags := by simp [hp]

/-- The engine after reset meets the invariant (R37). -/
theorem engineInv_reset (p : Params) : EngineInv p Engine.reset :=
  engineInv_of_idle rfl rfl (by decide) (by decide) (by simp [Engine.reset])

/-- The invariant does not read the registers that a host write can change (R44). -/
theorem EngineInv.of_host_registers (h : EngineInv p e)
    (he : e' = { e with ovr := e'.ovr, config := e'.config, text0 := e'.text0, text1 := e'.text1,
                        text2 := e'.text2, text3 := e'.text3 }) : EngineInv p e' := by
  rw [he]
  exact ⟨h.pending_iff_busy, h.wcnt_zero, h.wcnt_pos, h.idx_lt, h.length_le, h.wired, h.tags_ascend, h.state_tags⟩

/-- A running command may go to another phase with a delay count that fits the phase. -/
theorem EngineInv.move (h : EngineInv p e) (hb : e.phase ≠ .idle) {ph : Phase} {w : Nat} (sh : Shadow)
    (hph : ph ≠ .idle) (hz : ph = .issue ∨ ph = .wait → w = 0) (hpos : ph = .pre ∨ ph = .post → 0 < w) :
    EngineInv p { e with phase := ph, wcnt := w, shadow := sh } where
  pending_iff_busy := by simpa [hph] using h.pending_iff_busy.mpr hb
  wcnt_zero hc := hz (hc.resolve_left hph)
  wcnt_pos := hpos
  idx_lt _ := h.idx_lt hb
  length_le := h.length_le
  wired := h.wired
  tags_ascend _ := h.tags_ascend hb
  state_tags _ := h.state_tags hb

/-- abort() keeps the invariant (R106). -/
theorem EngineInv.abort (h : EngineInv p e) (b : Byte) : EngineInv p (e.abort b) :=
  engineInv_of_idle rfl rfl (by simp) h.length_le h.wired

/-- finish() keeps the invariant: the command ends, or the next entry is issued with the STATE its predecessor's tag
leaves (R102, R107). -/
theorem EngineInv.finish (h : EngineInv p e) (hb : e.phase ≠ .idle) {x : Entry} (sh : Shadow)
    (hx : e.ml.entries[e.idx]? = some x) :
    EngineInv p (({ e with wcnt := 0, shadow := sh } : Engine).finish x.tag) := by
  obtain ⟨hctrl, -⟩ := Engine.finish_tag x.tag { e with wcnt := 0, shadow := sh }
  obtain ⟨-, hf⟩ | ⟨hne, hf⟩ := Engine.finish_cases x.tag { e with wcnt := 0, shadow := sh } <;> rw [hf] at hctrl ⊢
  · exact engineInv_of_idle rfl (by simp) (by simp) (by simpa using h.length_le) (by simpa using h.wired)
  · obtain ⟨hlt, hget⟩ := List.getElem?_eq_some_iff.mp hx
    have hdrop : e.ml.entries.drop e.idx = x :: e.ml.entries.drop (e.idx + 1) := by
      rw [List.drop_eq_getElem_cons hlt, hget]
    have htail : tagsAscend (x.tag.ctrl?.getD e.ctrl) (e.ml.entries.drop (e.idx + 1)) = true :=
      tagsAscend_tail (hdrop ▸ h.tags_ascend hb)
    exact {
      pending_iff_busy := by simpa using h.pending_iff_busy.mpr hb
      wcnt_zero := by simp
      wcnt_pos := by simp
      idx_lt := by simp at hne ⊢; omega
      length_le := by simpa using h.length_le
      wired := by simpa using h.wired
      tags_ascend _ := by rw [hctrl]; simpa using htail
      state_tags := by simpa using h.state_tags hb }

/-- The sequencer's cycle keeps the invariant (R102). -/
theorem EngineInv.cycle (h : EngineInv p e) {b : BusIn} (hc : e.cycle b = .ok e') : EngineInv p e' := by
  obtain ⟨-, rfl⟩ | ⟨hp, -, rfl⟩ | ⟨hp, hw, rfl⟩ | ⟨hp, rfl⟩ | ⟨x, -, -, -, -, rfl⟩ | ⟨x, hp, hx, -, -, rfl⟩ | ⟨-, -, rfl⟩
    | ⟨x, hp, hx, -, rfl⟩ | ⟨hp, hw, rfl⟩ := Engine.cycle_cases hc
  · exact h
  · exact h.move (by simp [hp]) e.shadow (by simp) (by simp) (by simp)
  · exact h.move (by simp [hp]) e.shadow (by simp [hp]) (by simp [hp]) (by omega)
  · exact h.move (by simp [hp]) e.shadow (by simp) (by simp [h.wcnt_zero, hp]) (by simp)
  · exact h.abort x.byte
  · obtain ⟨-, hd⟩ | ⟨hpos, hd⟩ := e.doneCycle_cases x <;> rw [hd]
    · have hw : e.wcnt = 0 := h.wcnt_zero (by simp [hp])
      have := h.finish (by simp [hp]) ⟨x.byte, true⟩ hx
      rwa [← hw] at this
    · exact h.move (by simp [hp]) _ (by simp) (by simp) (fun _ => hpos)
  · exact h
  · exact h.finish (by simp [hp]) e.shadow hx
  · exact h.move (by simp [hp]) e.shadow (by simp [hp]) (by simp [hp]) (by omega)

/-- Acceptance in an idle engine keeps the invariant (R100, R109). -/
theorem EngineInv.startOf (h : EngineInv p e) (hv : p.pins.valid = true) (hp : e.phase = .idle) (i : Instr) :
    EngineInv p (startOf p i e) := by
  have hctrl := tagsAscend_startOf p i e
  have hbusy := startOf_phase_ne_idle p i e
  have hwcnt : e.wcnt = 0 := h.wcnt_zero (.inl hp)
  obtain ⟨hml, hidx, hres, -, -, -, -, -, -, -, -, -, -, hph, hw⟩ := startOf_keeps p i e
  exact {
    pending_iff_busy := by simp [hres, hbusy]
    wcnt_zero := by rw [hph, hw]; split <;> simp [hwcnt]
    wcnt_pos := by rw [hph, hw]; split <;> simp [*]
    idx_lt _ := by rw [hidx, hml]; exact length_build_pos p e i
    length_le := hml ▸ length_build_le p e i
    wired := hml ▸ wiredByte_build hv e i
    tags_ascend _ := by rw [hidx, hml]; exact hctrl
    state_tags := by
      rintro - ⟨x, hx, htag⟩
      rw [hml] at hx ⊢
      by_cases hi : i = .init
      · subst hi; exact ⟨e.config, rfl⟩
      · exact absurd (ctrl?_build p e hi x hx) htag }

/-- Refusal of a command in an idle engine keeps the invariant (R110). -/
theorem EngineInv.refuse (h : EngineInv p e) (hp : e.phase = .idle) {code : ResultCode} (hc : code ≠ .pending) :
    EngineInv p (e.refuse code) :=
  engineInv_of_idle hp (h.wcnt_zero (.inl hp)) hc h.length_le h.wired

/-- No command's check answers PENDING (R176). -/
theorem check_ne_pending (w : Word) (c : CtrlState) : check w c ≠ .pending := by
  unfold check
  cases decode w with
  | none => simp
  | some i => cases i <;> simp only [checkInstr, gateReady, gateReadyLine] <;> (repeat' split) <;> simp

end Sys2Proof.Machine
end

section
/-! PROOF. The statements of 10_state.md: what one step does to each register and to the invariant, and the state
after reset. -/

namespace Sys2Proof.Machine

/-- Parameters inside the spec have distinct pins (R10). -/
theorem pins_valid_of_valid {p : Params} (h : p.valid = true) : p.pins.valid = true := by
  simp only [Params.valid, Bool.and_eq_true] at h
  exact h.2

/-- The sequencer's part of a cycle does not touch OVR. -/
theorem engineCycle_ovr {e : Engine} {s u : State} (h : engineCycle e s = .next u) : u.eng.ovr = e.ovr := by
  obtain ⟨e', he, rfl⟩ := engineCycle_next h
  obtain ⟨-, hovr, -⟩ := Engine.cycle_keeps he
  exact hovr

/-- A guarded write sets OVR exactly when it is dropped (R56). -/
theorem Engine.guardedWrite_ovr {store : Engine → Engine} {e : Engine} (h : (store e).ovr = e.ovr) :
    (e.guardedWrite store).ovr = (e.busy || e.ovr) := by
  unfold Engine.guardedWrite
  cases e.busy <;> simp [h]

/-- A write to STATUS clears OVR when wdata[7] = 1 (R28). -/
theorem Engine.writeReg_status_ovr (w : Word) (e : Engine) :
    (e.writeReg .status w).ovr = (e.ovr && !w.getLsbD 7) := by
  unfold Engine.writeReg
  cases h : w.getLsbD 7 <;> simp

/-- Settles O44: reset gives the reset engine; without reset a step is an acceptance, a refusal, or the sequencer's
cycle after a host write that the invariant does not read. -/
theorem stepKeepsTheInvariant : Obligations.StepKeepsTheInvariant := by
  intro s t hinv ht
  obtain ⟨hv, -⟩ := step_next ht
  unfold State.Inv at hinv ⊢
  rw [step_params ht]
  cases hr : s.env.inReset with
  | true => rw [step_inReset ht hr]; exact engineInv_reset s.params
  | false =>
    obtain ⟨w, i, -, -, hp, -, he⟩ | ⟨w, -, hp, -, he⟩ | ⟨e, he, hreg, -⟩ := step_noReset_cases ht hr
    · rw [he]; exact hinv.startOf (pins_valid_of_valid hv) hp i
    · rw [he]; exact hinv.refuse hp (check_ne_pending w s.eng.ctrl)
    · exact (hinv.of_host_registers hreg).cycle he

/-- Settles O32: the sequencer does not touch OVR, so it is what the host's action of the cycle leaves. -/
theorem overrunFlagRule : Obligations.OverrunFlagRule := by
  intro s t ht hr
  obtain ⟨-, u, hu, rfl⟩ := step_next ht
  rw [endCycle_eng]
  obtain ⟨hr', -⟩ | ⟨w, i, hw, hp, -, -, rfl⟩ | ⟨w, hw, hp, -, rfl⟩ | ⟨w, hw, hp, hc⟩ | ⟨r, w, hw, hc⟩ | ⟨hw, hc⟩ :=
    portCycle_cases hu
  · simp [hr] at hr'
  · simp [hw, (Engine.busy_eq_false_iff s.eng).mpr hp, startOf_keeps]
  · simp [hw, (Engine.busy_eq_false_iff s.eng).mpr hp]
  · simp [hw, (Engine.busy_eq_true_iff s.eng).mpr hp, engineCycle_ovr hc]
  · rw [hw, engineCycle_ovr hc]
    cases r with
    | cmd => rfl
    | status => exact Engine.writeReg_status_ovr w s.eng
    | cursor => rfl
    | shadow => rfl
    | fault => rfl
    | _ => exact Engine.guardedWrite_ovr rfl
  · rw [hw, engineCycle_ovr hc]

/-- Settles O47: a step from a busy engine is the sequencer's cycle, which writes none of the operands. -/
theorem operandsFixedWhileBusy : Obligations.OperandsFixedWhileBusy := by
  intro s t hb hr ht
  obtain ⟨o, hc⟩ := step_busy ht hr ((Engine.busy_eq_true_iff s.eng).mp hb)
  obtain ⟨hml, -, hcfg, h0, h1, h2, h3⟩ := Engine.cycle_keeps hc
  exact ⟨hcfg, h0, h1, h2, h3, hml⟩

/-- Settles O48: a step from a busy engine is the sequencer's cycle, which moves IDX only by `finish`. -/
theorem indexNeverJumps : Obligations.IndexNeverJumps := by
  intro s t hb hr ht
  obtain ⟨o, hc⟩ := step_busy ht hr ((Engine.busy_eq_true_iff s.eng).mp hb)
  have hidx := Engine.cycle_idx hc
  exact hidx

/-- The three writes of a nibble without a tag of its own carry no tag (R122). -/
theorem tag_nib_none (p : Params) (v : Nibble) (rs : Bool) (d : Nat) : ∀ x ∈ nib p v rs d .none, x.tag = .none := by
  simp [nib]

/-- Settles O50: CURSOR changes in the sequencer's cycle only, by `finish`. -/
theorem cursorFollowsTags : Obligations.CursorFollowsTags := by
  refine ⟨fun s t ht hr hne => ?_, fun p e rs b v => ⟨fun x hx => ?_, tag_nib_none p v rs _⟩⟩
  · by_cases hp : s.eng.phase = .idle
    · obtain ⟨hk, -⟩ := step_idle ht hr hp
      exact absurd hk hne
    · obtain ⟨o, hc⟩ := step_busy ht hr hp
      have hcur := Engine.cycle_cursor hc hne
      exact hcur
  · obtain hx | hx := List.mem_append.mp hx <;> exact tag_nib_none p _ rs _ x hx

/-- Settles O51: from an idle engine no step writes SHADOW, and from a busy one a step is the sequencer's cycle. -/
theorem shadowRule : Obligations.ShadowRule := by
  intro s t _ ht hr
  by_cases hp : s.eng.phase = .idle
  · obtain ⟨-, hs, -⟩ := step_idle ht hr hp
    simp [hp, hs]
  · obtain ⟨o, hc⟩ := step_busy ht hr hp
    obtain ⟨x, hw, hd, he, hx, hs⟩ | ⟨hw, hd, he, hs⟩ | ⟨hn, hs⟩ := Engine.cycle_shadow hc
    · exact ⟨fun _ _ _ => ⟨x, hx, hs⟩, by simp [he], by simp [show s.eng.phase = .wait from hw, hd]⟩
    · exact ⟨by simp [he], fun _ _ _ => hs, by simp [show s.eng.phase = .wait from hw, hd]⟩
    · exact ⟨fun hw hd _ => absurd hd (by simp [hn hw]), fun hw hd _ => absurd hd (by simp [hn hw]), fun _ => hs⟩

/-- Settles O52: from an idle engine FAULT changes with an acceptance only, and from a busy one a step is the
sequencer's cycle; the invariant bounds IDX, so FIDX holds it whole. -/
theorem faultRegisterRule : Obligations.FaultRegisterRule := by
  intro s t hinv ht hr
  by_cases hp : s.eng.phase = .idle
  · obtain ⟨-, -, ⟨hpt, hf⟩ | ⟨hpt, hf⟩⟩ := step_idle ht hr hp <;> simp [hp, hpt, hf]
  · obtain ⟨o, hc⟩ := step_busy ht hr hp
    obtain ⟨x, hw, hd, he, hx, hf⟩ | ⟨hn, hf⟩ := Engine.cycle_fault hc
    · have hidx : s.eng.idx < 256 := by have := hinv.idx_lt hp; have := hinv.length_le; omega
      refine ⟨fun _ _ _ => ⟨x, hx, ?_⟩, fun h => absurd h hp, by simp [show s.eng.phase = .wait from hw, hd, he]⟩
      simp [hf, Nat.mod_eq_of_lt hidx]
    · exact ⟨fun hw hd he => absurd he (by simp [hn hw hd]), fun h => absurd h hp, fun _ => hf⟩

/-- Settles O35: the reset registers are constants. -/
theorem resetValues : Obligations.ResetValues := by
  intro p
  rw [State.resetWith_eng]
  exact ⟨rfl, rfl, rfl, rfl, by decide, by decide, by decide, by decide, by decide, rfl, rfl, rfl, rfl, rfl⟩

/-- Settles O45: the reset engine is idle, with an empty micro-list and no delay. -/
theorem resetMeetsTheInvariant : Obligations.ResetMeetsTheInvariant := engineInv_reset

end Sys2Proof.Machine
end

section
/-! PROOF. The word of a well-formed command decodes to the command (30_encoding.md R62 to R66). -/

namespace Sys2Proof

/-- No word matches two rows of the opcode map: every row compares OP, and no two rows have the same OP (R66). -/
theorem OpRow.eq_of_selects {r r' : OpRow} {w : Word} (hr : r ∈ opcodeMap) (hr' : r' ∈ opcodeMap)
    (h : r.selects w = true) (h' : r'.selects w = true) : r = r' := by
  have hmask : ∀ r ∈ opcodeMap, r.mask &&& 0xF000#32 = 0xF000#32 := by decide
  have hop : ∀ r ∈ opcodeMap, ∀ r' ∈ opcodeMap, r.pattern &&& 0xF000#32 = r'.pattern &&& 0xF000#32 → r = r' := by
    decide
  have hw : ∀ r ∈ opcodeMap, r.selects w = true → r.pattern &&& 0xF000#32 = w &&& 0xF000#32 := by
    intro r hr h
    simp only [OpRow.selects, beq_iff_eq] at h
    rw [← h, BitVec.and_assoc, hmask r hr]
  exact hop r hr r' hr' ((hw r hr h).trans (hw r' hr' h').symm)

/-- A word that matches a row of the map decodes to the row's command (R66). -/
theorem decode_of_selects {r : OpRow} {w : Word} (hr : r ∈ opcodeMap) (h : r.selects w = true) :
    decode w = some (operandsOf r.op w) := by
  unfold decode
  cases hf : opcodeMap.find? (fun r => r.selects w) with
  | none => exact absurd h (List.find?_eq_none.mp hf r hr)
  | some r' =>
    have hs := List.find?_some hf
    rw [OpRow.eq_of_selects hr (List.mem_of_find?_eq_some hf) h hs]; rfl

/-- LINE of a word of format FL (R63). -/
theorem lineField_encodeFL (op : BitVec 4) {line : Nat} (arg : Nat) (h : line < 4) :
    lineField (encodeFL op line arg) = line := by
  have hbits : (encodeFL op line arg).extractLsb' 8 2 = BitVec.ofNat 2 line := by
    ext i hi
    simp [encodeFL, opWord, show 8 + i < 12 by omega, show 8 + i < 32 by omega,
      BitVec.getLsbD_eq_getElem hi]
  rw [lineField, hbits, BitVec.toNat_ofNat, Nat.mod_eq_of_lt h]

/-- ARG of a word of format FL (R63). -/
theorem argField_encodeFL (op : BitVec 4) (line : Nat) {arg : Nat} (h : arg < 256) :
    argField (encodeFL op line arg) = arg := by
  have hbits : (encodeFL op line arg).extractLsb' 0 8 = BitVec.ofNat 8 arg := by
    ext i hi
    simp [encodeFL, opWord, hi, show i < 12 by omega, show i < 32 by omega]
  rw [argField, hbits, BitVec.toNat_ofNat, Nat.mod_eq_of_lt h]

/-- The word of a well-formed command matches its row of the map (R66). -/
theorem encode_selects {i : Instr} (h : i.wf = true) : ∃ r ∈ opcodeMap, r.op = i.op ∧ r.selects (encode i) = true := by
  cases i with
  | init => exact Laws.EncodeRow.init h
  | clear => exact Laws.EncodeRow.clear h
  | setCursor line col => exact Laws.EncodeRow.setCursor line col h
  | writeText line len => exact Laws.EncodeRow.writeText line len h
  | writeByte rs data => exact Laws.EncodeRow.writeByte rs data h
  | writeNibble rs v => exact Laws.EncodeRow.writeNibble rs v h

/-- The operands of a well-formed command's word are the command's (R71). -/
theorem operandsOf_encode {i : Instr} (h : i.wf = true) : operandsOf i.op (encode i) = i := by
  cases i with
  | init => rfl
  | clear => rfl
  | setCursor line col =>
    simp only [Instr.wf, Bool.and_eq_true, decide_eq_true_eq] at h
    simp [operandsOf, Instr.op, encode, lineField_encodeFL, argField_encodeFL, h]
  | writeText line len =>
    simp only [Instr.wf, Bool.and_eq_true, decide_eq_true_eq] at h
    simp [operandsOf, Instr.op, encode, lineField_encodeFL, argField_encodeFL, h]
  | writeByte rs data => clear h; revert rs data; decide
  | writeNibble rs v => clear h; revert rs v; decide

/-- The decoder reads back every well-formed command (R62 to R66). -/
theorem decode_encode {i : Instr} (h : i.wf = true) : decode (encode i) = some i := by
  obtain ⟨r, hr, hop, hs⟩ := encode_selects h
  rw [decode_of_selects hr hs, hop, operandsOf_encode h]

end Sys2Proof
end

section
/-! PROOF. Every state that meets the invariant has a next state (10_state.md R20), and what a step does to the
environment (00_scope.md R12). -/

namespace Sys2Proof.Machine

variable {p : Params} {e : Engine}

/-- An engine that meets the invariant makes its cycle, whatever the bus agent does (R22, R102). -/
theorem EngineInv.exists_cycle (h : EngineInv p e) (b : BusIn) : ∃ e', e.cycle b = .ok e' := by
  have hentry (hb : e.phase ≠ .idle) : ∃ x, e.ml.entries[e.idx]? = some x :=
    ⟨_, List.getElem?_eq_getElem (h.idx_lt hb)⟩
  cases hp : e.phase with
  | idle => exact ⟨e, Engine.cycle_idle b hp⟩
  | pre =>
    have hw : e.wcnt ≠ 0 := (h.wcnt_pos (.inl hp)).ne'
    rw [Engine.cycle_pre b hp, Engine.preCycle, if_neg hw]
    split <;> exact ⟨_, rfl⟩
  | issue =>
    obtain ⟨x, hx⟩ := hentry (by simp [hp])
    exact ⟨_, Engine.cycle_issue b hp hx⟩
  | wait =>
    obtain ⟨x, hx⟩ := hentry (by simp [hp])
    rw [Engine.cycle_wait b hp hx, Engine.waitCycle]
    split
    · exact ⟨_, rfl⟩
    · split <;> exact ⟨_, rfl⟩
  | post =>
    obtain ⟨x, hx⟩ := hentry (by simp [hp])
    have hw : e.wcnt ≠ 0 := (h.wcnt_pos (.inr hp)).ne'
    rw [Engine.cycle_post b hp hx, Engine.postCycle, if_neg hw]
    split <;> exact ⟨_, rfl⟩

/-- The sequencer's part of a cycle gives a next state from an engine that meets the invariant. -/
theorem EngineInv.exists_engineCycle (h : EngineInv p e) (s : State) : ∃ u, engineCycle e s = .next u := by
  obtain ⟨e', he⟩ := h.exists_cycle s.env.busNow
  exact ⟨{ s with eng := e' }, by simp [engineCycle, he]⟩

/-- The port's cycle gives a next state from a state that meets the invariant, whatever reaches the port. -/
theorem exists_portCycle {s : State} (h : s.Inv) : ∃ u, portCycle s = .next u := by
  unfold portCycle
  cases portAction s with
  | reset => exact ⟨_, rfl⟩
  | command w =>
    obtain ⟨start, hc, -⟩ := commandCycle_eq_commandWrite w s
    simp only [hc]
    by_cases hp : s.eng.phase = .idle
    · by_cases hok : check w s.eng.ctrl = .ok
      · rw [hok]; exact ⟨_, commandWrite_accepted start hp⟩
      · exact ⟨_, commandWrite_refused start hp hok⟩
    · rw [commandWrite_busy _ start hp]
      exact (EngineInv.of_host_registers (e' := { s.eng with ovr := true }) h rfl).exists_engineCycle s
  | write r w => exact (EngineInv.of_host_registers h (Engine.writeReg_eq r w s.eng)).exists_engineCycle s
  | quiet => exact EngineInv.exists_engineCycle h s

/-- A state that meets the invariant, with parameters inside the spec, has a next state (R20). -/
theorem exists_step {s : State} (hv : s.params.valid = true) (h : s.Inv) : ∃ t, step s = .next t := by
  obtain ⟨u, hu⟩ := exists_portCycle h
  exact ⟨endCycle s u, by rw [step_valid hv, hu, mapNext_next]⟩

/-- Every step moves the environment on by one cycle (R12). -/
theorem step_env {s t : State} (h : step s = .next t) : t.env = envNext s := by
  obtain ⟨-, u, -, rfl⟩ := step_next h
  rfl

end Sys2Proof.Machine
end

section
/-! PROOF. The statements of 20_memory.md about one access of the host: the address map (R42, R45, R46), reads (R41,
R44) and writes (R44, R45, R56). -/

namespace Sys2Proof.Machine

/-! ### Register words as numbers -/

/-- Two fields of a word that do not overlap add up, the upper one at its place. -/
theorem toNat_or_shiftLeft {x y : Word} (n : Nat) (hx : x.toNat < 2 ^ n) (hy : y.toNat * 2 ^ n < 2 ^ 32) :
    (x ||| y <<< n).toNat = x.toNat + 2 ^ n * y.toNat := by
  rw [BitVec.toNat_or, BitVec.toNat_shiftLeft, Nat.shiftLeft_eq, Nat.mod_eq_of_lt hy, Nat.mul_comm, Nat.or_comm,
    ← Nat.two_pow_add_eq_or_of_lt hx, Nat.add_comm]

/-- A flag at bit 0 is the number of the flag. -/
theorem toNat_flagAt_zero (b : Bool) : (flagAt b 0).toNat = b.toNat := by cases b <;> rfl

/-- A flag above the fields of a word adds its place value. -/
theorem toNat_or_flagAt {x : Word} (b : Bool) (n : Nat) (hx : x.toNat < 2 ^ n) (hn : n < 32) :
    (x ||| flagAt b n).toNat = x.toNat + 2 ^ n * b.toNat := by
  have hb : ((BitVec.ofBool b).setWidth 32 : Word).toNat = b.toNat := by cases b <;> rfl
  have hle : b.toNat * 2 ^ n < 2 ^ 32 := by
    have hpow : 2 ^ n < 2 ^ 32 := Nat.pow_lt_pow_right (by decide) hn
    cases b with
    | false => simp
    | true => rwa [Bool.toNat_true, Nat.one_mul]
  rw [flagAt, toNat_or_shiftLeft n hx (by rwa [hb]), hb]

/-- STATUS as a number (R46). -/
theorem Engine.statusWord_toNat (e : Engine) :
    e.statusWord.toNat = e.busy.toNat + 2 * e.ctrl.code + 16 * e.result.code + 128 * e.ovr.toNat := by
  have hbusy := Bool.toNat_lt e.busy
  have hctrl : e.ctrl.code < 8 := by cases e.ctrl <;> decide
  have hresult : e.result.code < 8 := by cases e.result <;> decide
  have hctrlWord : (BitVec.ofNat 32 e.ctrl.code).toNat = e.ctrl.code := Nat.mod_eq_of_lt (by omega)
  have hresultWord : (BitVec.ofNat 32 e.result.code).toNat = e.result.code := Nat.mod_eq_of_lt (by omega)
  have h1 : (flagAt e.busy 0 ||| BitVec.ofNat 32 e.ctrl.code <<< 1).toNat = e.busy.toNat + 2 * e.ctrl.code := by
    rw [toNat_or_shiftLeft 1, toNat_flagAt_zero, hctrlWord, Nat.pow_one]
    · rwa [toNat_flagAt_zero]
    · omega
  have h2 : (flagAt e.busy 0 ||| BitVec.ofNat 32 e.ctrl.code <<< 1 ||| BitVec.ofNat 32 e.result.code <<< 4).toNat
      = e.busy.toNat + 2 * e.ctrl.code + 16 * e.result.code := by
    rw [toNat_or_shiftLeft 4, h1, hresultWord] <;> omega
  rw [Engine.statusWord, toNat_or_flagAt e.ovr 7 (by omega) (by decide), h2]
  omega

/-- CONFIG as a number (R46). -/
theorem Engine.readReg_config_toNat (e : Engine) :
    (e.readReg .config).toNat = e.config.blink.toNat + 2 * e.config.cursorOn.toNat := by
  have hblink := Bool.toNat_lt e.config.blink
  rw [Engine.readReg, toNat_or_flagAt _ 1 (by rwa [toNat_flagAt_zero]) (by decide), toNat_flagAt_zero, Nat.pow_one]

/-- CURSOR as a number (R46). -/
theorem Engine.readReg_cursor_toNat (e : Engine) :
    (e.readReg .cursor).toNat = e.cursor.col.toNat + 16 * e.cursor.line.toNat := by
  have hcol : (e.cursor.col.setWidth 32).toNat = e.cursor.col.toNat := by simp; omega
  have hline : (e.cursor.line.setWidth 32).toNat = e.cursor.line.toNat := by simp; omega
  rw [Engine.readReg, toNat_or_shiftLeft 4, hcol, hline] <;> omega

/-- SHADOW as a number (R46). -/
theorem Engine.readReg_shadow_toNat (e : Engine) :
    (e.readReg .shadow).toNat = e.shadow.last.toNat + 256 * e.shadow.valid.toNat := by
  have hlast : (e.shadow.last.setWidth 32).toNat = e.shadow.last.toNat := by simp; omega
  rw [Engine.readReg, toNat_or_flagAt _ 8 (by omega) (by decide), hlast]
  omega

/-- FAULT as a number (R46). -/
theorem Engine.readReg_fault_toNat (e : Engine) :
    (e.readReg .fault).toNat = e.fault.byte.toNat + 256 * e.fault.idx.toNat + 65536 * e.fault.valid.toNat := by
  have hbyte : (e.fault.byte.setWidth 32).toNat = e.fault.byte.toNat := by simp; omega
  have hidx : (e.fault.idx.setWidth 32).toNat = e.fault.idx.toNat := by simp; omega
  have h1 : (e.fault.byte.setWidth 32 ||| e.fault.idx.setWidth 32 <<< 8).toNat
      = e.fault.byte.toNat + 256 * e.fault.idx.toNat := by
    rw [toNat_or_shiftLeft 8, hbyte, hidx] <;> omega
  rw [Engine.readReg, toNat_or_flagAt _ 16 (by omega) (by decide), h1]
  omega

/-- Settles O26: the read returns the register's word, and each word is the sum of its fields at their places. -/
theorem registerReads : Obligations.RegisterReads := by
  intro s r addr q hv hinv hr haddr hq
  obtain ⟨t, ht⟩ := exists_step hv hinv
  have hrdata : t.env.rdata = s.eng.readReg r := by
    simp [step_env ht, rdataNext, hq, readData_reg hr haddr]
  refine ⟨t, ht, by simp [step_env ht, hostQNext, hq], ?_⟩
  rw [hrdata]
  cases r with
  | cmd => rfl
  | status => exact s.eng.statusWord_toNat
  | config => exact s.eng.readReg_config_toNat
  | cursor => exact s.eng.readReg_cursor_toNat
  | shadow => exact s.eng.readReg_shadow_toNat
  | fault => exact s.eng.readReg_fault_toNat
  | text0 => rfl
  | text1 => rfl
  | text2 => rfl
  | text3 => rfl

/-! ### Addresses -/

/-- The register an offset reaches is that of the word `off / 4`, or none (R42, R45, R46). -/
theorem regAt_ofNat : ∀ off < 64, regAt (BitVec.ofNat 6 off) =
    if off / 4 = 0 then some .cmd else if off / 4 = 1 then some .status else if off / 4 = 2 then some .config
    else if off / 4 = 3 then some .cursor else if off / 4 = 4 then some .shadow
    else if off / 4 = 5 then some .fault else if off / 4 = 8 then some .text0
    else if off / 4 = 9 then some .text1 else if off / 4 = 10 then some .text2
    else if off / 4 = 11 then some .text3 else none := by
  decide

/-- An address of the window has its distance from HOST_BASE as offset (R46). -/
theorem windowOffset_add (p : Params) {off : Nat} (h : off < 64) :
    windowOffset p (p.hostBase + off) = some (BitVec.ofNat 6 off) := by
  simp [windowOffset, h]

/-- Settles O28: the offset of an address in the window selects the register. -/
theorem windowAddresses : Obligations.WindowAddresses := by
  intro p off h
  rw [regOfAddr, windowOffset_add p h, Option.bind_some, regAt_ofNat off h]

/-- No register stands at a reserved offset (R45). -/
theorem regAt_reserved {off : Nat} (h : off / 4 = 6 ∨ off / 4 = 7 ∨ (48 ≤ off ∧ off < 64)) :
    regAt (BitVec.ofNat 6 off) = none := by
  rw [regAt_ofNat off (by omega)]
  repeat rw [if_neg (by omega)]

/-! ### Accesses that write nothing -/

/-- An access that does nothing at the port leaves it quiet, or in reset (R45, R200). -/
theorem portAction_of_quiet {s : State} {op : HostOp} {q : List HostOp} (hq : s.env.hostQ = op :: q)
    (hop : hostAction s.params op = .quiet) : portAction s = if s.env.inReset then .reset else .quiet := by
  simp [portAction, hq, hop]

/-- The sequencer's part of a cycle reads the bus wires, not the host's accesses (R102). -/
theorem engineCycle_withHostQ (e : Engine) (s : State) (q : List HostOp) :
    engineCycle e { s with env := { s.env with hostQ := q } }
      = mapNext (fun u => { u with env := { s.env with hostQ := q } }) (engineCycle e s) := by
  have hbus : ({ s.env with hostQ := q } : Env).busNow = s.env.busNow := rfl
  unfold engineCycle
  rw [hbus]
  cases e.cycle s.env.busNow <;> rfl

/-- In a cycle in which the host writes nothing, states that differ in the host's accesses only make the same step,
each with its own next environment (R44, R45). -/
theorem step_congr_of_quiet {s s' : State} {op op' : HostOp} {q q' : List HostOp}
    (hs : s' = { s with env := { s.env with hostQ := op' :: q' } }) (hq : s.env.hostQ = op :: q)
    (hop : hostAction s.params op = .quiet) (hop' : hostAction s.params op' = .quiet) :
    step s' = mapNext (fun t => { t with env := envNext s' }) (step s) := by
  have hact : portAction s = if s.env.inReset then .reset else .quiet := portAction_of_quiet hq hop
  have hact' : portAction s' = if s.env.inReset then .reset else .quiet := by
    subst hs; exact portAction_of_quiet rfl hop'
  have hcycle : portCycle s' = mapNext (fun u => { u with env := s'.env }) (portCycle s) := by
    unfold portCycle
    rw [hact, hact', hs]
    cases s.env.inReset with
    | true => rfl
    | false => exact engineCycle_withHostQ s.eng s _
  cases hv : s.params.valid with
  | false => simp [step, hs, hv]
  | true =>
    rw [step_valid hv, step_valid (by rw [hs]; exact hv), hcycle]
    cases portCycle s <;> rfl

/-- Settles O27: a read does nothing at the port, so the engine does what it does without it. -/
theorem readsHaveNoSideEffect : Obligations.ReadsHaveNoSideEffect := by
  intro s t addr q hq ht
  have hstep := step_congr_of_quiet (op' := .idle) (q' := q) rfl hq rfl rfl
  rw [ht, mapNext_next] at hstep
  refine ⟨_, hstep, ?_⟩
  have henv : t.env = { envNext { s with env := { s.env with hostQ := .idle :: q } } with rdata := t.env.rdata } := by
    simp [step_env ht, envNext, hostQNext, hq]
  exact congrArg (fun v => ({ t with env := v } : State)) henv

/-- Settles O29: no register stands at a reserved offset, so a read returns 0 and a write does nothing at the port. -/
theorem reservedOffsets : Obligations.ReservedOffsets := by
  intro s off q hv hinv hr hoff
  have hwin : windowOffset s.params (s.params.hostBase + off) = some (BitVec.ofNat 6 off) :=
    windowOffset_add s.params (by omega)
  obtain ⟨t, ht⟩ := exists_step hv hinv
  refine ⟨fun hq => ⟨t, ht, ?_⟩, fun w hq => ?_⟩
  · simp [step_env ht, rdataNext, hq, readData, hwin, hr, Engine.readOffset, regAt_reserved hoff]
  · have hop : hostAction s.params (.write (s.params.hostBase + off) w) = .quiet := by
      simp [hostAction, regOfAddr, hwin, regAt_reserved hoff]
    have hquiet : portAction s = .quiet := by simp [portAction_of_quiet hq hop, hr]
    refine ⟨?_, t, ht, by simpa [hquiet] using overrunFlagRule s t ht hr⟩
    have henv : envNext { s with env := { s.env with hostQ := .idle :: q } } = t.env := by
      simp [step_env ht, envNext, hostQNext, rdataNext, hq]
    rw [step_congr_of_quiet (op' := .idle) (q' := q) rfl hq hop rfl, ht, mapNext_next, henv]

/-! ### Writes -/

/-- Settles O22: every command's `exec` is a write to CMD, which is dropped while BUSY. -/
theorem commandWhileBusyIsDropped : Obligations.CommandWhileBusyIsDropped := by
  intro i s hb
  rw [exec_eq_commandWrite, commandWrite_busy _ _ ((Engine.busy_eq_true_iff s.eng).mp hb)]
  rfl

/-- A host write to a register other than CMD is made before the sequencer's cycle (R44). -/
theorem HostWrites.portCycle_reg {s : State} {r : Reg} {w : Word} {q : List HostOp} (h : HostWrites s r w q)
    (hr : r ≠ .cmd) : portCycle s = engineCycle (s.eng.writeReg r w) s := by
  have ha : portAction s = .write r w := by simpa [hr] using h.action
  simp [portCycle, ha]

/-- A write of a word to CMD while BUSY is dropped (R56). -/
theorem commandCycle_busy {s : State} (w : Word) (h : s.eng.phase ≠ .idle) :
    commandCycle w s = engineCycle { s.eng with ovr := true } s := by
  obtain ⟨start, hc, -⟩ := commandCycle_eq_commandWrite w s
  rw [hc, commandWrite_busy _ start h]

/-- While BUSY a guarded write is dropped (R56). -/
theorem Engine.guardedWrite_busy {e : Engine} (store : Engine → Engine) (h : e.busy = true) :
    e.guardedWrite store = { e with ovr := true } := by
  simp [Engine.guardedWrite, h]

/-- While idle a guarded write stores (R44). -/
theorem Engine.guardedWrite_idle {e : Engine} (store : Engine → Engine) (h : e.phase = .idle) :
    e.guardedWrite store = store e := by
  simp [Engine.guardedWrite, (Engine.busy_eq_false_iff e).mpr h]

/-- A write to STATUS changes OVR only (R28). -/
theorem Engine.writeReg_status (w : Word) (e : Engine) :
    e.writeReg .status w = { e with ovr := e.ovr && !w.getLsbD 7 } := by
  unfold Engine.writeReg
  cases w.getLsbD 7 <;> simp

/-- Settles O30: the port drops each of the six writes, and the sequencer's cycle writes neither OVR nor the
operands. -/
theorem writesWhileBusyAreDropped : Obligations.WritesWhileBusyAreDropped := by
  intro s r w q hv hb hw
  have hr : s.env.inReset = false := hw.1
  have hovr (t : State) (ht : step s = .next t) := overrunFlagRule s t ht hr
  rw [hw.action] at hovr
  refine ⟨fun htarget => ⟨?_, fun t ht => ⟨?_, operandsFixedWhileBusy s t hb hr ht⟩⟩, ?_⟩
  · rw [step_valid hv]
    congr 1
    obtain rfl | htarget := htarget
    · rw [hw.portCycle_cmd, commandCycle_busy w ((Engine.busy_eq_true_iff s.eng).mp hb)]
    · have hdrop : s.eng.writeReg r w = { s.eng with ovr := true } := by
        obtain rfl | rfl | rfl | rfl | rfl := htarget <;>
          simp only [Engine.writeReg, Engine.guardedWrite_busy _ hb]
      rw [hw.portCycle_reg (by rintro rfl; simp at htarget), hdrop]
  · obtain rfl | rfl | rfl | rfl | rfl | rfl := htarget <;> simpa [hb] using hovr t ht
  · rintro rfl t ht
    simpa using hovr t ht

/-- Settles O31: while idle the sequencer does nothing, so the step is the register's write. -/
theorem writesWhileIdleStore : Obligations.WritesWhileIdleStore := by
  intro s r w q hv hp hw hr
  have hphase : (s.eng.writeReg r w).phase = .idle := by rw [Engine.writeReg_eq]; exact hp
  rw [step_valid hv, hw.portCycle_reg hr, engineCycle, Engine.cycle_idle _ hphase]
  simp only [mapNext_next]
  cases r with
  | cmd => exact absurd rfl hr
  | status => rw [Engine.writeReg_status]
  | cursor => rfl
  | shadow => rfl
  | fault => rfl
  | _ => simp only [Engine.writeReg, Engine.guardedWrite_idle _ hp]

end Sys2Proof.Machine
end

section
/-! PROOF. A running command cycle by cycle (40_command_engine.md R100 to R104): what the engine does and what the bus
agent sees, from the acceptance of a command through its pre-delay and the entries of its micro-list. -/

namespace Sys2Proof.Machine

/-! ### The bus agent's view of several cycles -/

/-- From `s` the machine reaches `t` in `n` cycles, in which the bytes `issued` are requested on the bus and the
writes of the bytes `completed` end without error. -/
structure Passes (n : Nat) (s t : State) (issued completed : List Byte) : Prop where
  run : Host.Core.run Sys2Proof.core n s = .next t
  issued_eq : issuedBytes n s = issued
  completed_eq : completedBytes n s = completed

/-- What is observed in `a + b` cycles is what is observed in the first `a` and then in the next `b`. -/
theorem observe_add (f : State → Option Byte) {a : Nat} (b : Nat) {s t : State}
    (h : Host.Core.run Sys2Proof.core a s = .next t) :
    observe f (a + b) s = observe f a s ++ observe f b t := by
  induction a generalizing s with
  | zero => cases h; simp [observe]
  | succ a ih =>
    rw [Nat.add_right_comm]
    have hstep : Sys2Proof.core.step s = step s := rfl
    simp only [Host.Core.run, hstep] at h
    simp only [observe]
    cases hs : step s with
    | next u => rw [hs] at h; simp only [ih h, List.append_assoc]
    | fault r => rw [hs] at h; cases h
    | refused r => rw [hs] at h; cases h

/-- In no cycles nothing is seen. -/
theorem Passes.refl (s : State) : Passes 0 s s [] [] := ⟨rfl, rfl, rfl⟩

/-- Consecutive cycles append what the bus agent sees. -/
theorem Passes.trans {a b : Nat} {s t u : State} {i i' c c' : List Byte} (h : Passes a s t i c)
    (h' : Passes b t u i' c') : Passes (a + b) s u (i ++ i') (c ++ c') where
  run := by rw [run_add b h.run, h'.run]
  issued_eq := by rw [issuedBytes, observe_add _ b h.run]; exact congrArg₂ _ h.issued_eq h'.issued_eq
  completed_eq := by rw [completedBytes, observe_add _ b h.run]; exact congrArg₂ _ h.completed_eq h'.completed_eq

/-- One step, with what the bus agent sees in its cycle. -/
theorem Passes.one {s t : State} (h : step s = .next t) :
    Passes 1 s t (issuedNow s).toList (completedNow s).toList where
  run := (run_one s).trans h
  issued_eq := by simp [issuedBytes, observe, h]
  completed_eq := by simp [completedBytes, observe, h]

/-- Outside ISSUE nothing is requested (R103). -/
theorem issuedNow_eq_none {s : State} (h : s.eng.phase ≠ .issue) : issuedNow s = none := by
  simp [issuedNow, busReq, h]

/-- In an ISSUE cycle the current entry's byte is requested (R103). -/
theorem issuedNow_issue {s : State} {x : Entry} (hr : s.env.inReset = false) (h : s.eng.phase = .issue)
    (hx : s.eng.ml.entries[s.eng.idx]? = some x) : issuedNow s = some x.byte := by
  simp [issuedNow, busReq, busData, Engine.current, hr, h, hx]

/-- Without a good done in WAIT no bus write completes (R113). -/
theorem completedNow_eq_none {s : State} (h : s.eng.phase = .wait → s.env.busNow.done = false) :
    completedNow s = none := by
  by_cases hp : s.eng.phase = .wait
  · simp [completedNow, h hp]
  · simp [completedNow, hp]

/-- A good done in WAIT completes the write of the current entry's byte (R102). -/
theorem completedNow_done {s : State} {x : Entry} (hr : s.env.inReset = false) (h : s.eng.phase = .wait)
    (hd : s.env.busNow.done = true) (he : s.env.busNow.err = false)
    (hx : s.eng.ml.entries[s.eng.idx]? = some x) : completedNow s = some x.byte := by
  simp [completedNow, Engine.current, hr, h, hd, he, hx]

/-! ### A state of a running command -/

/-- The state `s` holds the engine `e`, OVR apart, with parameters inside the spec; the bus agent drives `bus`, and
rst_n stays 1 for `n` cycles. The host's accesses are arbitrary. -/
structure Holds (s : State) (e : Engine) (bus : List BusIn) (n : Nat) : Prop where
  valid : s.params.valid = true
  eng : s.eng = { e with ovr := s.eng.ovr }
  busQ : s.env.busQ = bus
  noReset : noResetFor n s

section
variable {s : State} {e : Engine} {b : BusIn} {bus : List BusIn} {n : Nat}

/-- rst_n = 1 in the first of several cycles without reset. -/
theorem inReset_of_noResetFor (h : noResetFor (n + 1) s) : s.env.inReset = false := by
  unfold Env.inReset
  cases hq : s.env.rstQ with
  | nil => rfl
  | cons r q => simp [h r (by simp [hq])]

/-- The cycles without reset go on after a step. -/
theorem noResetFor_step {t : State} (h : noResetFor (n + 1) s) (ht : step s = .next t) : noResetFor n t := by
  intro r hr
  rw [step_env ht, envNext_rstQ] at hr
  apply h r
  cases hq : s.env.rstQ with
  | nil => simp [hq] at hr
  | cons r' q => rw [hq] at hr; exact List.mem_cons_of_mem _ hr

/-- The wires of this cycle are the head of the bus agent's list. -/
theorem Holds.busNow (h : Holds s e (b :: bus) n) : s.env.busNow = b := by
  simp [Env.busNow, h.busQ]

/-- No access of the host is a reset (R200). -/
theorem hostAction_ne_reset (p : Params) (op : HostOp) : hostAction p op ≠ .reset := by
  cases op with
  | write addr w => simp only [hostAction]; split <;> simp
  | _ => simp [hostAction]

/-- Without reset the port is not in reset (R200). -/
theorem portAction_ne_reset (hr : s.env.inReset = false) : portAction s ≠ .reset := by
  rw [portAction, hr, if_neg (by decide)]
  split
  · simp
  · exact hostAction_ne_reset _ _

/-- The port of a busy engine without reset: the sequencer's cycle, OVR apart, whatever the host does (R56, R112). -/
theorem portCycle_busy (hr : s.env.inReset = false) (hb : s.eng.phase ≠ .idle) :
    ∃ o, portCycle s = engineCycle { s.eng with ovr := o } s := by
  unfold portCycle
  cases ha : portAction s with
  | reset => exact absurd ha (portAction_ne_reset hr)
  | command w => exact ⟨true, commandCycle_busy w hb⟩
  | write r w => exact ⟨_, congrArg (engineCycle · s) (Engine.writeReg_busy r w hb)⟩
  | quiet => exact ⟨s.eng.ovr, rfl⟩

/-- The step of a running command is the cycle of the engine it holds (R102, R112). -/
theorem Holds.step (h : Holds s e (b :: bus) (n + 1)) (hb : e.phase ≠ .idle) {e' : Engine}
    (hc : e.cycle b = .ok e') : ∃ t, step s = .next t ∧ Holds t e' bus n := by
  have hphase : s.eng.phase ≠ .idle := by rw [h.eng]; exact hb
  obtain ⟨o, hp⟩ := portCycle_busy (inReset_of_noResetFor h.noReset) hphase
  have hcycle : ({ s.eng with ovr := o } : Engine).cycle s.env.busNow = .ok { e' with ovr := o } := by
    rw [h.busNow, h.eng]
    have := Engine.cycle_ovr e o b
    rwa [hc] at this
  have ht : Machine.step s = .next (endCycle s { s with eng := { e' with ovr := o } }) := by
    rw [step_valid h.valid, hp, engineCycle, hcycle, mapNext_next]
  exact ⟨_, ht, h.valid, rfl, by simp [h.busQ], noResetFor_step h.noReset ht⟩

/-- A cycle in which the engine neither requests a write nor samples a done shows the bus agent nothing. -/
theorem Holds.silent (h : Holds s e (b :: bus) (n + 1)) (hb : e.phase ≠ .idle) {e' : Engine} (hc : e.cycle b = .ok e')
    (hi : e.phase ≠ .issue) (hw : e.phase = .wait → b.done = false) :
    ∃ t, Passes 1 s t [] [] ∧ Holds t e' bus n := by
  obtain ⟨t, ht, hold⟩ := h.step hb hc
  have hphase : s.eng.phase = e.phase := by rw [h.eng]
  have hpass := Passes.one ht
  rw [issuedNow_eq_none (hphase ▸ hi), completedNow_eq_none (by rw [hphase, h.busNow]; exact hw)] at hpass
  exact ⟨t, hpass, hold⟩

/-! ### The phases -/

/-- A delay of PRE or POST takes WCNT cycles, in which the bus agent sees nothing; the last one, from WCNT = 1, gives
the engine that follows (R102, R103). -/
theorem Holds.delay {pins : List BusIn} (h : Holds s e (pins ++ bus) (pins.length + n))
    (hp : e.phase = .pre ∨ e.phase = .post ∧ ∃ x, e.ml.entries[e.idx]? = some x)
    (hw : e.wcnt = pins.length) (hpos : 0 < e.wcnt) {e' : Engine}
    (hlast : ∀ b, ({ e with wcnt := 1 } : Engine).cycle b = .ok e') :
    ∃ t, Passes pins.length s t [] [] ∧ Holds t e' bus n := by
  induction pins generalizing s e with
  | nil => exact absurd hw hpos.ne'
  | cons b pins ih =>
    rw [List.length_cons, Nat.add_right_comm] at h
    rw [List.length_cons] at hw
    have hbusy : e.phase ≠ .idle ∧ e.phase ≠ .issue ∧ e.phase ≠ .wait := by
      obtain hp | ⟨hp, -⟩ := hp <;> simp [hp]
    obtain ⟨hidle, hissue, hwait⟩ := hbusy
    cases pins with
    | nil =>
      have he : ({ e with wcnt := 1 } : Engine) = e := by rw [show 1 = e.wcnt from hw.symm]
      simpa using h.silent hidle (he ▸ hlast b) hissue (absurd · hwait)
    | cons b' pins =>
      rw [List.length_cons] at hw
      have hc : e.cycle b = .ok { e with wcnt := e.wcnt - 1 } := by
        obtain hp | ⟨hp, x, hx⟩ := hp
        · rw [Engine.cycle_pre b hp, Engine.preCycle, if_neg (by omega), if_neg (by omega)]
        · rw [Engine.cycle_post b hp hx, Engine.postCycle, if_neg (by omega), if_neg (by omega)]
      obtain ⟨t, hpass, hold⟩ := h.silent hidle hc hissue (absurd · hwait)
      obtain ⟨u, hpass', hold'⟩ := ih hold hp (by simp [hw]) (by simp [hw]) hlast
      exact ⟨u, by simpa [Nat.add_comm] using hpass.trans hpass', hold'⟩

/-- WAIT goes on without done, for any number of cycles (R111). -/
theorem Holds.waits {pins : List BusIn} (h : Holds s e (pins ++ bus) (pins.length + n)) (hp : e.phase = .wait)
    {x : Entry} (hx : e.ml.entries[e.idx]? = some x) (hd : ∀ w ∈ pins, w.done = false) :
    ∃ t, Passes pins.length s t [] [] ∧ Holds t e bus n := by
  induction pins generalizing s with
  | nil => exact ⟨s, .refl s, by simpa using h⟩
  | cons b pins ih =>
    rw [List.length_cons, Nat.add_right_comm] at h
    have hb : b.done = false := hd b List.mem_cons_self
    have hc : e.cycle b = .ok e := by simp [Engine.cycle_wait b hp hx, Engine.waitCycle, hb]
    obtain ⟨t, hpass, hold⟩ := h.silent (by simp [hp]) hc (by simp [hp]) (fun _ => hb)
    obtain ⟨u, hpass', hold'⟩ := ih hold (fun w hw => hd w (List.mem_cons_of_mem _ hw))
    exact ⟨u, by simpa [Nat.add_comm] using hpass.trans hpass', hold'⟩

/-- The ISSUE cycle requests the current entry's byte (R102, R103). -/
theorem Holds.issue (h : Holds s e (b :: bus) (n + 1)) (hp : e.phase = .issue) {x : Entry}
    (hx : e.ml.entries[e.idx]? = some x) :
    ∃ t, Passes 1 s t [x.byte] [] ∧ Holds t { e with phase := .wait } bus n := by
  obtain ⟨t, ht, hold⟩ := h.step (by simp [hp]) (Engine.cycle_issue b hp hx)
  have hpass := Passes.one ht
  have hps : s.eng.phase = .issue := by rw [h.eng]; exact hp
  have hxs : s.eng.ml.entries[s.eng.idx]? = some x := by rw [h.eng]; exact hx
  rw [issuedNow_issue (inReset_of_noResetFor h.noReset) hps hxs, completedNow_eq_none (by simp [hps])] at hpass
  exact ⟨t, hpass, hold⟩

/-- The cycle of a good done completes the write of the current entry's byte (R102). -/
theorem Holds.done (h : Holds s e (b :: bus) (n + 1)) (hp : e.phase = .wait) {x : Entry}
    (hx : e.ml.entries[e.idx]? = some x) (hd : b.done = true) (he : b.err = false) :
    ∃ t, Passes 1 s t [] [x.byte] ∧ Holds t (e.doneCycle x) bus n := by
  have hc : e.cycle b = .ok (e.doneCycle x) := by simp [Engine.cycle_wait b hp hx, Engine.waitCycle, hd, he]
  obtain ⟨t, ht, hold⟩ := h.step (by simp [hp]) hc
  have hpass := Passes.one ht
  have hps : s.eng.phase = .wait := by rw [h.eng]; exact hp
  have hxs : s.eng.ml.entries[s.eng.idx]? = some x := by rw [h.eng]; exact hx
  rw [issuedNow_eq_none (by simp [hps]), completedNow_done (inReset_of_noResetFor h.noReset) hps
    (by rwa [h.busNow]) (by rwa [h.busNow]) hxs] at hpass
  exact ⟨t, hpass, hold⟩

/-! ### The entries of a micro-list -/

/-- The engine after the entry `x`: its byte in SHADOW, its delay over, and finish() done (R102). -/
def Engine.afterEntry (e : Engine) (x : Entry) : Engine :=
  ({ e with wcnt := 0, shadow := ⟨x.byte, true⟩ } : Engine).finish x.tag

/-- finish() does not read PHASE (R102). -/
theorem Engine.finish_withPhase (e : Engine) (ph : Phase) (t : Tag) :
    ({ e with phase := ph } : Engine).finish t = e.finish t := by
  cases t <;> (unfold Engine.finish; split <;> rfl)

/-- After an entry that is not the last the next one is issued (R102). -/
theorem Engine.afterEntry_next {e : Engine} (x : Entry) (h : e.idx + 1 ≠ e.ml.entries.length) :
    (e.afterEntry x).phase = .issue ∧ (e.afterEntry x).idx = e.idx + 1 := by
  obtain ⟨hl, -⟩ | ⟨-, hf⟩ := Engine.finish_cases x.tag { e with wcnt := 0, shadow := ⟨x.byte, true⟩ }
  · exact absurd hl h
  · rw [Engine.afterEntry, hf]
    exact ⟨rfl, rfl⟩

/-- From the good done of an entry through its post-delay the bus agent sees that write complete (R102, R103). -/
theorem Holds.doneAndPost {ok : BusIn} {posts : List BusIn} {x : Entry}
    (h : Holds s { e with phase := .wait } (ok :: (posts ++ bus)) (posts.length + n + 1)) (hw : e.wcnt = 0)
    (hx : e.ml.entries[e.idx]? = some x) (hd : ok.done = true) (he : ok.err = false)
    (hposts : posts.length = x.delay) :
    ∃ t, Passes (1 + posts.length) s t [] [x.byte] ∧ Holds t (e.afterEntry x) bus n := by
  obtain ⟨t, hpass, hold⟩ := h.done rfl hx hd he
  obtain ⟨h0, hdone⟩ | ⟨hpos, hdone⟩ := Engine.doneCycle_cases x { e with phase := .wait } <;> rw [hdone] at hold
  · have hnil : posts = [] := List.eq_nil_of_length_eq_zero (by omega)
    subst hnil
    have hafter : ({ e with phase := .wait, shadow := ⟨x.byte, true⟩ } : Engine).finish x.tag = e.afterEntry x := by
      rw [Engine.afterEntry, ← hw]
      exact Engine.finish_withPhase { e with shadow := ⟨x.byte, true⟩ } .wait x.tag
    exact ⟨t, hpass, by simpa [hafter] using hold⟩
  · have hlast (b : BusIn) : ({ e with shadow := ⟨x.byte, true⟩, wcnt := 1, phase := .post } : Engine).cycle b
        = .ok (e.afterEntry x) := by
      have hcycle := Engine.cycle_post (e := { e with shadow := ⟨x.byte, true⟩, wcnt := 1, phase := .post }) b rfl hx
      rw [hcycle, Engine.postCycle, if_pos rfl]
      exact congrArg Except.ok (Engine.finish_withPhase { e with wcnt := 0, shadow := ⟨x.byte, true⟩ } .post x.tag)
    obtain ⟨u, hpass', hold'⟩ := hold.delay (.inr ⟨rfl, x, hx⟩) hposts.symm hpos hlast
    exact ⟨u, hpass.trans hpass', hold'⟩

/-- The cycles of one answered entry: its byte is requested once and completed once (R101, R102). -/
theorem Holds.entry {issue ok : BusIn} {waits posts : List BusIn} {x : Entry}
    (h : Holds s e (issue :: (waits ++ ok :: (posts ++ bus))) (waits.length + (posts.length + n + 1) + 1))
    (hp : e.phase = .issue) (hw : e.wcnt = 0) (hx : e.ml.entries[e.idx]? = some x)
    (hwaits : ∀ w ∈ waits, w.done = false) (hd : ok.done = true) (he : ok.err = false)
    (hposts : posts.length = x.delay) :
    ∃ t, Passes (1 + (waits.length + (1 + posts.length))) s t [x.byte] [x.byte] ∧ Holds t (e.afterEntry x) bus n := by
  obtain ⟨t, hissue, hold⟩ := h.issue hp hx
  obtain ⟨u, hwait, hold⟩ := hold.waits rfl hx hwaits
  obtain ⟨v, hdone, hold⟩ := hold.doneAndPost hw hx hd he hposts
  exact ⟨v, hissue.trans (hwait.trans hdone), hold⟩

/-- The engine after the entries `xs`. -/
def Engine.afterEntries (e : Engine) (xs : List Entry) : Engine := xs.foldl Engine.afterEntry e

/-- The cycles of the answered entries `xs`, the next ones of the micro-list: their bytes are requested and completed
in order, and no others (R101, R102). -/
theorem Holds.entries {xs : List Entry} (later : List Entry) {latencies : List Nat} {pins : List BusIn}
    (ha : Answered xs latencies pins) (h : Holds s e (pins ++ bus) (pins.length + n)) (hw : e.wcnt = 0)
    (hnext : xs ≠ [] → e.phase = .issue ∧ e.ml.entries.drop e.idx = xs ++ later) :
    ∃ t, Passes pins.length s t (xs.map Entry.byte) (xs.map Entry.byte) ∧ Holds t (e.afterEntries xs) bus n := by
  induction ha generalizing s e with
  | nil => exact ⟨s, .refl s, by simpa [Engine.afterEntries] using h⟩
  | cons x xs latencies issue ok waits posts rest hwaits hd he hposts _ ih =>
    obtain ⟨hp, hdrop⟩ := hnext (by simp)
    have hx : e.ml.entries[e.idx]? = some x := by
      simpa [hdrop] using (List.getElem?_drop (xs := e.ml.entries) (i := e.idx) (j := 0)).symm
    have hlen : e.ml.entries.length - e.idx = xs.length + later.length + 1 := by
      simpa using congrArg List.length hdrop
    have hn : (issue :: (waits ++ ok :: (posts ++ rest))).length + n
        = waits.length + (posts.length + (rest.length + n) + 1) + 1 := by
      simp only [List.length_cons, List.length_append]; omega
    rw [hn] at h
    simp only [List.cons_append, List.append_assoc] at h
    obtain ⟨t, hpass, hold⟩ := h.entry hp hw hx hwaits hd he hposts
    obtain ⟨hml, hwcnt, -⟩ := Engine.finish_keeps x.tag { e with wcnt := 0, shadow := ⟨x.byte, true⟩ }
    obtain ⟨u, hpass', hold'⟩ := ih hold hwcnt (fun hne => by
      have hpos := List.length_pos_iff.mpr hne
      obtain ⟨hphase, hidx⟩ := e.afterEntry_next x (by omega)
      refine ⟨hphase, ?_⟩
      rw [hidx, Engine.afterEntry, hml, ← List.drop_drop, hdrop]
      rfl)
    have hlength : (issue :: (waits ++ ok :: (posts ++ rest))).length
        = 1 + (waits.length + (1 + posts.length)) + rest.length := by
      simp only [List.length_cons, List.length_append]; omega
    exact ⟨u, hlength ▸ hpass.trans hpass', hold'⟩

/-- The wires of answered entries last as long as the entries take (R108). -/
theorem length_of_answered {xs : List Entry} {latencies : List Nat} {pins : List BusIn}
    (h : Answered xs latencies pins) : pins.length = cyclesOf xs latencies := by
  induction h with
  | nil => rfl
  | cons x xs latencies issue ok waits posts rest _ _ _ hposts _ ih =>
    simp only [cyclesOf, totalDelay, List.length_cons, List.length_append, List.sum_cons, List.map_cons] at ih ⊢
    omega

end

/-! ### An accepted command -/

/-- The engine of an accepted command when its first entry is issued: after the acceptance and the pre-delay (R100,
R102). -/
def Engine.firstIssue (p : Params) (i : Instr) (e : Engine) : Engine :=
  { startOf p i e with phase := .issue, wcnt := 0 }

/-- The cycle in which the host writes an accepted command to CMD, with the bus idle (R100). -/
theorem passes_acceptance {s : State} {i : Instr} {q : List HostOp} (hv : s.params.valid = true)
    (hp : s.eng.phase = .idle) (hwf : i.wf = true) (hok : checkInstr i s.eng.ctrl = .ok)
    (hw : HostWrites s .cmd (encode i) q) {n : Nat} (hr : noResetFor (n + 1) s) :
    ∃ t, Passes 1 s t [] [] ∧ Holds t (startOf s.params i s.eng) s.env.busQ.tail n := by
  have hexec : exec i s = .next { s with eng := startOf s.params i s.eng } := by
    rw [exec_eq_commandWrite, hok, commandWrite_accepted _ hp]
  have ht := stepRunsTheDecodedCommand s (encode i) i q hv hw (decode_encode hwf)
  rw [hexec, mapNext_next] at ht
  have hpass := Passes.one ht
  rw [issuedNow_eq_none (by simp [hp]), completedNow_eq_none (by simp [hp])] at hpass
  exact ⟨_, hpass, hv, rfl, rfl, noResetFor_step hr ht⟩

/-- From the acceptance through the pre-delay the bus agent sees nothing (R102, R103). -/
theorem passes_preDelay {s : State} {i : Instr} {e : Engine} {p : Params} {prePins bus : List BusIn} {n : Nat}
    (h : Holds s (startOf p i e) (prePins ++ bus) (prePins.length + n)) (hw : e.wcnt = 0)
    (hpre : prePins.length = (build p e i).pre) :
    ∃ t, Passes prePins.length s t [] [] ∧ Holds t (e.firstIssue p i) bus n := by
  obtain ⟨-, -, -, -, -, -, -, -, -, -, -, -, -, hphase, hwcnt⟩ := startOf_keeps p i e
  by_cases hpos : 0 < (build p e i).pre
  · rw [if_pos hpos] at hphase hwcnt
    refine h.delay (.inl hphase) (hwcnt.trans hpre.symm) (hwcnt ▸ hpos) fun b => ?_
    have hcycle := Engine.cycle_pre (e := { startOf p i e with wcnt := 1 }) b hphase
    rw [hcycle, Engine.preCycle, if_pos rfl]
    rfl
  · rw [if_neg hpos] at hphase hwcnt
    have hnil : prePins = [] := List.eq_nil_of_length_eq_zero (by omega)
    have hfirst : e.firstIssue p i = startOf p i e := by
      rw [Engine.firstIssue, ← hphase, ← hw, ← hwcnt]
    subst hnil
    exact ⟨s, .refl s, by simpa [hfirst] using h⟩

/-- An accepted command whose writes all succeed, from the host's write to the end: the bytes of its micro-list are
requested and completed in order, and no others (R52, R101, R104). -/
theorem AcceptedRun.passes {s : State} {i : Instr} {q : List HostOp} {latencies : List Nat} {first : BusIn}
    {prePins pins rest : List BusIn} (h : AcceptedRun s i q latencies first prePins pins rest) :
    ∃ t, Passes (1 + (build s.params s.eng i).pre + cyclesOf (build s.params s.eng i).entries latencies) s t
        ((build s.params s.eng i).entries.map Entry.byte) ((build s.params s.eng i).entries.map Entry.byte)
      ∧ Holds t ((s.eng.firstIssue s.params i).afterEntries (build s.params s.eng i).entries) rest 0 := by
  have hw : s.eng.wcnt = 0 := h.inv.wcnt_zero (.inl h.idle)
  have hr : noResetFor (prePins.length + pins.length + 1) s := by
    have := h.noReset
    rwa [Nat.add_assoc, Nat.add_comm] at this
  obtain ⟨hml, hidx, -⟩ := startOf_keeps s.params i s.eng
  obtain ⟨t, haccept, hold⟩ := passes_acceptance h.valid h.idle h.wf h.accepted h.host hr
  rw [h.bus, List.tail_cons] at hold
  obtain ⟨u, hpre, hold⟩ := passes_preDelay hold hw h.preLength
  obtain ⟨v, hrun, hold⟩ := Holds.entries [] (n := 0) h.answered hold rfl fun _ =>
    ⟨rfl, by simp [Engine.firstIssue, hml, hidx]⟩
  rw [← h.preLength, ← length_of_answered h.answered]
  exact ⟨v, (haccept.trans hpre).trans hrun, hold⟩

/-- Settles O56: what the bus agent sees is nothing at the acceptance and in the pre-delay, and then each entry's byte,
requested once and completed once. -/
theorem expanderReceivesTheMicroList : Obligations.ExpanderReceivesTheMicroList := by
  intro s i q latencies first prePins pins rest h
  obtain ⟨t, hpass, -⟩ := h.passes
  exact ⟨hpass.completed_eq, hpass.issued_eq⟩

end Sys2Proof.Machine
end

section
/-! PROOF. The statements of 30_encoding.md about words and commands (R61 to R68): a legal word is the word of the
command it decodes to, and the legal words are the rows of the opcode map. -/

namespace Sys2Proof

/-- Settles O1: the word matches the command's row of the opcode map, and its fields are the operands. -/
theorem decodeEncodeAgree : Obligations.DecodeEncodeAgree := fun _ => decode_encode

/-- A command is read from a word that matches a row of the map: the row's operands (R66). -/
theorem exists_row_of_decode {w : Word} {i : Instr} (h : decode w = some i) :
    ∃ r ∈ opcodeMap, r.selects w = true ∧ operandsOf r.op w = i := by
  obtain ⟨r, hr, hi⟩ := Option.map_eq_some_iff.mp h
  have hs := List.find?_some hr
  exact ⟨r, List.mem_of_find?_eq_some hr, hs, hi⟩

/-- The operands read from a word fit their fields, whatever the word (R63, R71). -/
theorem wf_operandsOf (op : Op) (w : Word) : (operandsOf op w).wf = true := by
  cases op <;> simp [operandsOf, Instr.wf, lineField_lt, argField_lt]

/-- The operands of an operation make a command of that operation. -/
theorem op_operandsOf (op : Op) (w : Word) : (operandsOf op w).op = op := by
  cases op <;> rfl

/-- A field of a word, put back at its place, is the word under the field's mask (R71). -/
theorem shiftLeft_extractLsb' (w : Word) (s n : Nat) :
    (w.extractLsb' s n).setWidth 32 <<< s = w &&& ((BitVec.allOnes n).setWidth 32 <<< s) := by
  ext i hi
  by_cases h : i < s
  · simp [h]
  · simp [h, hi, show s + (i - s) = i by omega, Bool.and_comm]

/-- RS is a field of one bit (R71). -/
theorem ofBool_rsField (w : Word) : BitVec.ofBool (rsField w) = w.extractLsb' 8 1 := by
  ext i hi
  obtain rfl : i = 0 := by omega
  simp [rsField]

/-- The low field of a word is the word under the field's mask (R71). -/
theorem setWidth_extractLsb'_zero (w : Word) (n : Nat) :
    (w.extractLsb' 0 n).setWidth 32 = w &&& (BitVec.allOnes n).setWidth 32 := by
  simpa using shiftLeft_extractLsb' w 0 n

/-- The word of the operands read from any word is the row's pattern with the bits the row's mask leaves free
(R62 to R66): every free bit is an operand's. -/
theorem encode_operandsOf {r : OpRow} (hr : r ∈ opcodeMap) (w : Word) :
    encode (operandsOf r.op w) = r.pattern ||| (w &&& ~~~r.mask) := by
  simp only [opcodeMap, List.mem_cons, List.not_mem_nil, or_false] at hr
  obtain rfl | rfl | rfl | rfl | rfl | rfl := hr
  · simp [operandsOf, encode, opWord]
  · simp [operandsOf, encode, opWord]
  all_goals
    -- Each operand is the word under its field's mask, and the masks of a row's fields add up to its free bits.
    simp only [operandsOf, encode, encodeFL, lineField, argField, dataField, nibField, ofBool_rsField,
      BitVec.ofNat_toNat, BitVec.setWidth_eq, shiftLeft_extractLsb', setWidth_extractLsb'_zero, BitVec.or_assoc,
      ← BitVec.and_or_distrib_left]
    rfl

/-- Settles O2: a legal word is its row's pattern where the mask is set, and its command's operands elsewhere. -/
theorem encodeDecodeAgree : Obligations.EncodeDecodeAgree := by
  intro w i h
  obtain ⟨r, hr, hs, rfl⟩ := exists_row_of_decode h
  refine ⟨wf_operandsOf r.op w, ?_⟩
  have hpattern : w &&& r.mask = r.pattern := by simpa [OpRow.selects] using hs
  rw [encode_operandsOf hr, ← hpattern, ← BitVec.and_or_distrib_left, BitVec.or_not_self,
    BitVec.and_allOnes]

/-- A word is legal exactly when it matches a row of the map (R66). -/
theorem isSome_decode_iff (w : Word) : (decode w).isSome = true ↔ ∃ r ∈ opcodeMap, r.selects w = true := by
  constructor
  · intro h
    obtain ⟨i, hi⟩ := Option.isSome_iff_exists.mp h
    obtain ⟨r, hr, hs, -⟩ := exists_row_of_decode hi
    exact ⟨r, hr, hs⟩
  · rintro ⟨r, hr, hs⟩
    rw [decode_of_selects hr hs]; rfl

/-- A row of the map as the triple the statement lists. -/
def OpRow.triple (r : OpRow) : Op × Word × Word := (r.op, r.pattern, r.mask)

/-- Settles O3: the rows are those of the opcode map, and no word matches two of them. -/
theorem legalWordsAreTheRows : Obligations.LegalWordsAreTheRows := by
  unfold Obligations.LegalWordsAreTheRows
  intro rows
  have hrows : rows = opcodeMap.map OpRow.triple := rfl
  have hmatch (r : OpRow) (w : Word) : w &&& r.triple.2.2 = r.triple.2.1 ↔ r.selects w = true := beq_iff_eq.symm
  simp only [hrows, List.mem_map, exists_exists_and_eq_and, List.pairwise_map, hmatch]
  refine ⟨isSome_decode_iff, fun w i h => ?_, ?_⟩
  · obtain ⟨r, hr, hs, rfl⟩ := exists_row_of_decode h
    exact ⟨r, hr, (op_operandsOf r.op w).symm, hs⟩
  · have hdistinct : opcodeMap.Pairwise (· ≠ ·) := by decide
    exact hdistinct.imp_of_mem fun hr hr' hne w h => hne (OpRow.eq_of_selects hr hr' h.1 h.2)

/-- Settles O5: the decoder evaluated at each word. -/
theorem sampleWordsDecode : Obligations.SampleWordsDecode := by
  unfold Obligations.SampleWordsDecode
  decide

end Sys2Proof
end

section
/-! PROOF. `wait_idle` (30_encoding.md R74), and the model's choice on operands that fit no field (R63). -/

namespace Sys2Proof.Machine

/-! ### `wait_idle` -/

/-- A read at a register's own address, outside reset, returns the register (R41, R46). -/
theorem readData_hostAddr {s : State} (hr : s.env.inReset = false) (r : Reg) :
    readData s (hostAddr s.params r) = s.eng.readReg r := by
  obtain ⟨off, hwin, hreg⟩ := Option.bind_eq_some_iff.mp (regOfAddr_hostAddr s.params r)
  simp [readData, hwin, hr, Engine.readOffset, hreg]

/-- BUSY is bit 0 of STATUS (R46). -/
theorem Engine.getElem_statusWord_zero (e : Engine) : e.statusWord[0] = e.busy := by
  simp [Engine.statusWord, flagAt]

/-- Settles O33: the access reads STATUS, whose bit 0 decides whether it stays. -/
theorem waitIdleRepeatsWhileBusy : Obligations.WaitIdleRepeatsWhileBusy := by
  intro s q hv hinv hr hq
  obtain ⟨t, ht⟩ := exists_step hv hinv
  have hread : readData s (hostAddr s.params .status) = s.eng.statusWord := readData_hostAddr hr .status
  refine ⟨t, ht, ?_, ?_⟩
  · simp [step_env ht, rdataNext, hq, hread]
  · simp [step_env ht, hostQNext, hq, hread, Engine.getElem_statusWord_zero]

/-! ### Operands no word carries -/

/-- A command that check turns away while idle changes RESULT only (R110, R176). -/
theorem exec_refused {s : State} {i : Instr} {code : ResultCode} (hp : s.eng.phase = .idle)
    (hc : checkInstr i s.eng.ctrl = code) (hne : code ≠ .ok) :
    exec i s = .next { s with eng := { s.eng with result := code } } := by
  rw [exec_eq_commandWrite, hc, commandWrite_refused _ hp hne]; rfl

/-- Only the two commands with a LINE have operands that can miss their fields (R63). -/
theorem checkInstr_of_not_wf {i : Instr} (h : i.wf = false) {c : CtrlState} (hc : c ≠ .ready) :
    checkInstr i c = .notInitialized := by
  cases i with
  | setCursor line col => simp [checkInstr, gateReadyLine, hc]
  | writeText line len => simp [checkInstr, gateReadyLine, hc]
  | _ => simp [Instr.wf] at h

/-- In Ready a LINE past the display is out of range (R173). -/
theorem gateReadyLine_ready {line : Nat} (h : 1 < line) : gateReadyLine .ready line = .rangeError := by
  have : ¬ line < Config.lines := by unfold Config.lines; omega
  simp [gateReadyLine, this]

/-- Settles O60: the command is SET_CURSOR or WRITE_TEXT, and the check refuses it. -/
theorem illFormedTermsAreCheckedAlike : Obligations.IllFormedTermsAreCheckedAlike := by
  intro s i hp hwf
  refine ⟨fun hc => exec_refused hp (checkInstr_of_not_wf hwf hc) (by decide), ?_⟩
  intro line arg hc hline hi
  refine exec_refused hp ?_ (by decide)
  rw [hc]
  obtain rfl | rfl := hi <;> exact gateReadyLine_ready hline

end Sys2Proof.Machine
end

section
/-! PROOF. Commands from acceptance to their end (40_command_engine.md R104 to R108): the engine when each entry is
issued, the end of a command whose writes succeed, and the end of one whose write fails. -/

namespace Sys2Proof.Machine

/-! ### What the entries of a micro-list add up to -/

/-- SHADOW after good dones of the entries, in order (R31). -/
def shadowAfter (entries : List Entry) (sh : Shadow) : Shadow := entries.foldl (fun _ x => ⟨x.byte, true⟩) sh

/-- SHADOW.LAST is the last entry's byte (R31). -/
theorem shadowAfter_last (entries : List Entry) (sh : Shadow) :
    (shadowAfter entries sh).last = (entries.getLast?.map Entry.byte).getD sh.last := by
  induction entries using List.reverseRecOn with
  | nil => rfl
  | append_singleton xs x _ => simp [shadowAfter]

/-- A tag sets STATE and CURSOR where it names them (R107). -/
theorem Engine.applyTag_eq_tag (t : Tag) (e : Engine) :
    e.applyTag t = { e with ctrl := t.ctrl?.getD e.ctrl, cursor := t.cursor?.getD e.cursor } := by
  cases t <;> rfl

/-- finish() at the last entry ends the command with OK (R105). -/
theorem Engine.finish_last {e : Engine} (t : Tag) (h : e.idx + 1 = e.ml.entries.length) :
    e.finish t = { e with
      ctrl := t.ctrl?.getD e.ctrl, cursor := t.cursor?.getD e.cursor, phase := .idle, result := .ok } := by
  rw [Engine.finish, if_pos h, Engine.applyTag_eq_tag]

/-- finish() before the last entry moves on to the next one (R102). -/
theorem Engine.finish_next {e : Engine} (t : Tag) (h : e.idx + 1 ≠ e.ml.entries.length) :
    e.finish t = { e with
      ctrl := t.ctrl?.getD e.ctrl, cursor := t.cursor?.getD e.cursor, phase := .issue, idx := e.idx + 1 } := by
  rw [Engine.finish, if_neg h, Engine.applyTag_eq_tag]

/-- The engine after the entries `xs`, when more are to come: the next one is issued (R102, R107). -/
theorem Engine.afterEntries_of_lt {e : Engine} {xs : List Entry} (hp : e.phase = .issue) (hw : e.wcnt = 0)
    (hlt : e.idx + xs.length < e.ml.entries.length) :
    e.afterEntries xs = { e with
      idx := e.idx + xs.length, ctrl := ctrlAfter xs e.ctrl, cursor := cursorAfter xs e.cursor
      shadow := shadowAfter xs e.shadow } := by
  induction xs generalizing e with
  | nil => rfl
  | cons x xs ih =>
    rw [List.length_cons] at hlt
    have hx : e.afterEntry x = { e with
        idx := e.idx + 1, ctrl := x.tag.ctrl?.getD e.ctrl, cursor := x.tag.cursor?.getD e.cursor
        shadow := ⟨x.byte, true⟩ } := by
      rw [Engine.afterEntry, Engine.finish_next _ (by simp only; omega), ← hp, ← hw]
    have htail : e.afterEntries (x :: xs) = (e.afterEntry x).afterEntries xs := rfl
    rw [htail, hx]
    refine (ih ?_ ?_ ?_).trans ?_
    · exact hp
    · exact hw
    · simp only; omega
    · simp only [List.length_cons, Nat.add_assoc, Nat.add_comm 1]
      rfl

/-! ### The engine of a running command -/

/-- The engine of the command `i`, accepted by `e`, when entry `k` of its micro-list is issued: the tags and the bytes
of the entries before it applied, and everything else as acceptance left it (R100, R102, R107). -/
def Engine.issuing (p : Params) (i : Instr) (e : Engine) (k : Nat) : Engine :=
  { e with
    phase := .issue, idx := k, ml := build p e i, wcnt := 0
    ctrl := ctrlAfter ((build p e i).entries.take k) (if i = .init then .uninitialized else e.ctrl)
    cursor := cursorAfter ((build p e i).entries.take k) e.cursor
    result := .pending
    shadow := shadowAfter ((build p e i).entries.take k) e.shadow
    fault := { e.fault with valid := false } }

/-- The first entry is issued with nothing applied yet (R100). -/
theorem Engine.issuing_zero (p : Params) (i : Instr) (e : Engine) : e.issuing p i 0 = e.firstIssue p i := by
  cases i <;> rfl

/-- After the first `k` entries, with more to come, entry `k` is issued. -/
theorem Engine.afterEntries_take (p : Params) (i : Instr) (e : Engine) {k : Nat}
    (hk : k < (build p e i).entries.length) :
    (e.firstIssue p i).afterEntries ((build p e i).entries.take k) = e.issuing p i k := by
  have hlen : ((build p e i).entries.take k).length = k := by simp [hk.le]
  rw [← Engine.issuing_zero, Engine.afterEntries_of_lt rfl rfl (by simpa [Engine.issuing, hlen] using hk), hlen]
  simp [Engine.issuing, ctrlAfter, cursorAfter, shadowAfter]

/-- After all entries the command has ended with OK (R105). -/
theorem Engine.afterEntries_all (p : Params) (i : Instr) (e : Engine) :
    (e.firstIssue p i).afterEntries (build p e i).entries = { e with
      phase := .idle, idx := (build p e i).entries.length - 1, ml := build p e i, wcnt := 0
      ctrl := ctrlAfter (build p e i).entries (if i = .init then .uninitialized else e.ctrl)
      cursor := cursorAfter (build p e i).entries e.cursor
      result := .ok
      shadow := ⟨((build p e i).entries.getLast?.map Entry.byte).getD e.shadow.last, true⟩
      fault := { e.fault with valid := false } } := by
  have hpos := length_build_pos p e i
  have hne : (build p e i).entries ≠ [] := List.length_pos_iff.mp hpos
  obtain ⟨xs, x, hxs⟩ := List.eq_nil_or_concat _ |>.resolve_left hne
  have htake : (build p e i).entries.take xs.length = xs := by simp [hxs]
  have hlen : (build p e i).entries.length = xs.length + 1 := by simp [hxs]
  have hbefore := e.afterEntries_take p i (k := xs.length) (by omega)
  rw [htake] at hbefore
  have hsplit : (e.firstIssue p i).afterEntries (build p e i).entries = (e.issuing p i xs.length).afterEntry x := by
    rw [← hbefore, hxs, Engine.afterEntries, List.concat_eq_append, List.foldl_append]
    rfl
  rw [hsplit, Engine.afterEntry, Engine.finish_last _ (by simp only [Engine.issuing, hlen])]
  simp [Engine.issuing, hxs, ctrlAfter, cursorAfter]

/-! ### A started command -/

/-- The host writes the word of `i` to CMD in this cycle and the engine accepts it; the bus agent drives `bus` from the
first ISSUE cycle on. What an accepted and a failing run have in common. -/
structure Starts (s : State) (i : Instr) (q : List HostOp) (first : BusIn) (prePins bus : List BusIn) : Prop where
  valid : s.params.valid = true
  inv : s.Inv
  idle : s.eng.phase = .idle
  wf : i.wf = true
  accepted : checkInstr i s.eng.ctrl = .ok
  host : HostWrites s .cmd (encode i) q
  busQ : s.env.busQ = first :: (prePins ++ bus)
  preLength : prePins.length = (build s.params s.eng i).pre

section
variable {s : State} {i : Instr} {q : List HostOp} {k n : Nat} {latencies : List Nat} {first : BusIn}
  {prePins pins bus rest waits : List BusIn} {issue bad : BusIn}

theorem AcceptedRun.starts (h : AcceptedRun s i q latencies first prePins pins rest) :
    Starts s i q first prePins (pins ++ rest) :=
  ⟨h.valid, h.inv, h.idle, h.wf, h.accepted, h.host, h.bus, h.preLength⟩

theorem FailingRun.starts (h : FailingRun s i q k latencies first prePins pins issue bad waits rest) :
    Starts s i q first prePins (pins ++ (issue :: (waits ++ bad :: rest))) :=
  ⟨h.valid, h.inv, h.idle, h.wf, h.accepted, h.host, h.bus, h.preLength⟩

/-- A started command, after its acceptance (R100). -/
theorem Starts.acceptance (h : Starts s i q first prePins bus) (hr : noResetFor (n + 1) s) :
    ∃ t, Passes 1 s t [] [] ∧ Holds t (startOf s.params i s.eng) (prePins ++ bus) n := by
  obtain ⟨t, hpass, hold⟩ := passes_acceptance h.valid h.idle h.wf h.accepted h.host hr
  rw [h.busQ] at hold
  exact ⟨t, hpass, hold⟩

/-- A started command whose first `k` writes succeed comes to the ISSUE cycle of entry `k`; the bus agent has seen
these `k` bytes requested and completed (R104). -/
theorem Starts.reaches_issue (h : Starts s i q first prePins (pins ++ bus))
    (hk : k < (build s.params s.eng i).entries.length)
    (ha : Answered ((build s.params s.eng i).entries.take k) latencies pins)
    (hr : noResetFor (1 + prePins.length + pins.length + n) s) :
    ∃ t, Passes (1 + (build s.params s.eng i).pre + cyclesOf ((build s.params s.eng i).entries.take k) latencies) s t
        (((build s.params s.eng i).entries.take k).map Entry.byte)
        (((build s.params s.eng i).entries.take k).map Entry.byte)
      ∧ Holds t (s.eng.issuing s.params i k) bus n := by
  have hr' : noResetFor (prePins.length + (pins.length + n) + 1) s := by
    rwa [Nat.add_comm, ← Nat.add_assoc, ← Nat.add_assoc]
  obtain ⟨hml, hidx, -⟩ := startOf_keeps s.params i s.eng
  obtain ⟨t, haccept, hold⟩ := h.acceptance hr'
  obtain ⟨u, hpre, hold⟩ := passes_preDelay hold (h.inv.wcnt_zero (.inl h.idle)) h.preLength
  obtain ⟨v, hrun, hold⟩ := Holds.entries ((build s.params s.eng i).entries.drop k) ha hold rfl fun _ =>
    ⟨rfl, by simp [Engine.firstIssue, hml, hidx]⟩
  rw [Engine.afterEntries_take s.params i s.eng hk] at hold
  rw [← h.preLength, ← length_of_answered ha]
  exact ⟨v, (haccept.trans hpre).trans hrun, hold⟩

/-! ### An entry whose write fails -/

/-- The cycle of a failing done aborts the command; no write is requested or completes in it (R106). -/
theorem Holds.failingDone {e : Engine} {b : BusIn} (h : Holds s e (b :: bus) (n + 1)) (hp : e.phase = .wait)
    {x : Entry} (hx : e.ml.entries[e.idx]? = some x) (hd : b.done = true) (he : b.err = true) :
    ∃ t, Passes 1 s t [] [] ∧ Holds t (e.abort x.byte) bus n := by
  have hc : e.cycle b = .ok (e.abort x.byte) := by simp [Engine.cycle_wait b hp hx, Engine.waitCycle, hd, he]
  obtain ⟨t, ht, hold⟩ := h.step (by simp [hp]) hc
  have hphase : s.eng.phase = .wait := by rw [h.eng]; exact hp
  have hnone : completedNow s = none := by simp [completedNow, h.busNow, he]
  have hpass := Passes.one ht
  rw [issuedNow_eq_none (by simp [hphase]), hnone] at hpass
  exact ⟨t, hpass, hold⟩

/-- An entry whose write fails: its byte is requested, and the command ends at the done (R106). -/
theorem Holds.failingEntry {e : Engine}
    (h : Holds s e (issue :: (waits ++ bad :: bus)) (waits.length + (n + 1) + 1)) (hp : e.phase = .issue)
    {x : Entry} (hx : e.ml.entries[e.idx]? = some x) (hwaits : ∀ w ∈ waits, w.done = false)
    (hd : bad.done = true) (he : bad.err = true) :
    ∃ t, Passes (1 + (waits.length + 1)) s t [x.byte] [] ∧ Holds t (e.abort x.byte) bus n := by
  obtain ⟨t, hissue, hold⟩ := h.issue hp hx
  obtain ⟨u, hwait, hold⟩ := hold.waits rfl hx hwaits
  obtain ⟨v, hfail, hold⟩ := hold.failingDone rfl hx hd he
  exact ⟨v, hissue.trans (hwait.trans hfail), hold⟩

end

/-! ### The end of a command -/

/-- Settles O55: the run through all entries ends in the engine after them. -/
theorem commandCompletes : Obligations.CommandCompletes := by
  intro s i q latencies first prePins pins rest h
  obtain ⟨t, hpass, hold⟩ := h.passes
  have heng := hold.eng
  rw [Engine.afterEntries_all] at heng
  exact ⟨t, hpass.run, hold.busQ, heng⟩

/-- Settles O58: the entries before `k` are answered, and then entry `k` fails. -/
theorem failedWriteEndsTheCommand : Obligations.FailedWriteEndsTheCommand := by
  intro s i q k latencies first prePins pins issue bad waits rest h
  have hx := List.getElem?_eq_getElem h.inList
  obtain ⟨t, hpass, hold⟩ := h.starts.reaches_issue h.inList h.answered h.noReset
  obtain ⟨u, hfail, hold⟩ := Holds.failingEntry (n := 0) hold rfl hx h.notDone h.done h.failed
  have hall := hpass.trans hfail
  have hn : 1 + (waits.length + 1) = waits.length + 2 := by omega
  rw [hn] at hall
  refine ⟨u, hall.run, by simpa using hall.completed_eq, ?_, ?_⟩
  · rw [List.take_add_one, hx, List.map_append]
    exact hall.issued_eq
  · have heng := hold.eng
    rw [← shadowAfter_last, hx]
    exact heng

end Sys2Proof.Machine
end

section
/-! PROOF. The instants of a command (40_command_engine.md R103, R104, R108): when each write is issued and done, and
in which cycles BUSY reads 1. -/

namespace Sys2Proof.Machine

/-! ### The bus agent's answer to one entry -/

/-- The entry `x` is answered with the latency `lat`: WAIT cycles `waits` without done, the good done `ok`, and the
cycles `posts` of its post-delay (R103, R104). -/
structure AnswersEntry (x : Entry) (lat : Nat) (waits : List BusIn) (ok : BusIn) (posts : List BusIn) : Prop where
  notDone : ∀ w ∈ waits, w.done = false
  done : ok.done = true
  good : ok.err = false
  delay : posts.length = x.delay
  latency : lat = waits.length + 1

/-- There is one latency for each answered entry. -/
theorem Answered.length_latencies {xs : List Entry} {latencies : List Nat} {pins : List BusIn}
    (h : Answered xs latencies pins) : latencies.length = xs.length := by
  induction h with
  | nil => rfl
  | cons x xs latencies issue ok waits posts rest _ _ _ _ _ ih => simp [ih]

/-- The answers to a list of entries are those to the entries before entry `k`, the answer to entry `k`, and later
ones. -/
theorem Answered.at_entry {xs : List Entry} {latencies : List Nat} {pins : List BusIn}
    (h : Answered xs latencies pins) {k lat : Nat} {x : Entry} (hx : xs[k]? = some x)
    (hl : latencies[k]? = some lat) :
    ∃ before issue waits ok posts later, pins = before ++ issue :: (waits ++ ok :: (posts ++ later))
      ∧ Answered (xs.take k) (latencies.take k) before ∧ AnswersEntry x lat waits ok posts := by
  induction h generalizing k with
  | nil => simp at hx
  | cons x' xs latencies issue ok waits posts rest hwaits hd he hposts _ ih =>
    cases k with
    | zero =>
      obtain rfl : x' = x := by simpa using hx
      obtain rfl : waits.length + 1 = lat := by simpa using hl
      exact ⟨[], issue, waits, ok, posts, rest, rfl, .nil, hwaits, hd, he, hposts, rfl⟩
    | succ k =>
      obtain ⟨before, issue', waits', ok', posts', later, rfl, hbefore, hat⟩ := ih hx hl
      exact ⟨_, issue', waits', ok', posts', later, by simp only [List.cons_append, List.append_assoc],
        .cons x' _ _ issue ok waits posts before hwaits hd he hposts hbefore, hat⟩

/-- Entry `k` takes one ISSUE cycle, its latency and its post-delay (R104, R108). -/
theorem cyclesOf_take_succ {xs : List Entry} {latencies : List Nat} {k lat : Nat} {x : Entry}
    (hx : xs[k]? = some x) (hl : latencies[k]? = some lat) :
    cyclesOf (xs.take (k + 1)) (latencies.take (k + 1))
      = cyclesOf (xs.take k) (latencies.take k) + (1 + lat + x.delay) := by
  simp only [cyclesOf, totalDelay, List.take_add_one, hx, hl, Option.toList_some, List.length_append,
    List.map_append, List.sum_append, List.map_cons, List.map_nil, List.sum_singleton, List.length_singleton]
  omega

/-! ### BUSY over several cycles -/

/-- BUSY reads 1 in the cycles from `a` until before `b`, counted from `s` (R26). -/
def BusyDuring (a b : Nat) (s : State) : Prop :=
  ∀ n, a ≤ n → n < b → ∃ u, Host.Core.run Sys2Proof.core n s = .next u ∧ u.eng.busy = true

theorem BusyDuring.trans {a b c : Nat} {s : State} (h : BusyDuring a b s) (h' : BusyDuring b c s) :
    BusyDuring a c s := by
  intro n ha hc
  by_cases hb : n < b
  · exact h n ha hb
  · exact h' n (by omega) hc

/-- BUSY in the cycles after the first `a`, seen from their start. -/
theorem BusyDuring.after {a m : Nat} {s t : State} (ht : Host.Core.run Sys2Proof.core a s = .next t)
    (h : BusyDuring 0 m t) : BusyDuring a (a + m) s := by
  intro n ha hn
  obtain ⟨j, rfl⟩ := Nat.exists_eq_add_of_le ha
  obtain ⟨u, hu, hb⟩ := h j (Nat.zero_le j) (by omega)
  exact ⟨u, (run_add j ht).trans hu, hb⟩

section
variable {s : State} {e : Engine} {b issue ok : BusIn} {bus waits posts pins : List BusIn} {n lat : Nat} {x : Entry}

/-- A running command has BUSY = 1 in this cycle. -/
theorem Holds.busy (h : Holds s e bus n) (hb : e.phase ≠ .idle) : BusyDuring 0 1 s := by
  intro m _ hm
  obtain rfl : m = 0 := by omega
  exact ⟨s, rfl, (Engine.busy_eq_true_iff s.eng).mpr (by rw [h.eng]; exact hb)⟩

/-- A busy cycle, and then `m` more. -/
theorem Holds.busy_succ {m : Nat} {t : State} (h : Holds s e bus n) (hb : e.phase ≠ .idle)
    (ht : Machine.step s = .next t) (hbusy : BusyDuring 0 m t) : BusyDuring 0 (m + 1) s := by
  have hlater := BusyDuring.after ((run_one s).trans ht) hbusy
  rw [Nat.add_comm 1] at hlater
  exact (h.busy hb).trans hlater

/-- BUSY reads 1 in every cycle of a delay (R26). -/
theorem Holds.busy_delay (h : Holds s e (pins ++ bus) (pins.length + n))
    (hp : e.phase = .pre ∨ e.phase = .post ∧ ∃ x, e.ml.entries[e.idx]? = some x) (hw : e.wcnt = pins.length) :
    BusyDuring 0 pins.length s := by
  have hbusy : e.phase ≠ .idle := by obtain hp | ⟨hp, -⟩ := hp <;> simp [hp]
  induction pins generalizing s e with
  | nil => intro m _ hm; simp at hm
  | cons b pins ih =>
    rw [List.length_cons] at hw
    cases hpins : pins with
    | nil => exact h.busy hbusy
    | cons b' pins' =>
      have hlen : 0 < pins.length := by simp [hpins]
      have hc : e.cycle b = .ok { e with wcnt := e.wcnt - 1 } := by
        obtain hp | ⟨hp, x, hx⟩ := hp
        · rw [Engine.cycle_pre b hp, Engine.preCycle, if_neg (by omega), if_neg (by omega)]
        · rw [Engine.cycle_post b hp hx, Engine.postCycle, if_neg (by omega), if_neg (by omega)]
      rw [List.length_cons, Nat.add_right_comm] at h
      obtain ⟨t, ht, hold⟩ := h.step hbusy hc
      rw [← hpins, List.length_cons]
      exact h.busy_succ hbusy ht (ih hold hp (by simp [hw]) hbusy)

/-- BUSY reads 1 in every WAIT cycle, that of the done included (R26). -/
theorem Holds.busy_waits (h : Holds s e (waits ++ bus) (waits.length + n)) (hp : e.phase = .wait)
    (hx : e.ml.entries[e.idx]? = some x) (hd : ∀ w ∈ waits, w.done = false) :
    BusyDuring 0 (waits.length + 1) s := by
  have hbusy : e.phase ≠ .idle := by simp [hp]
  induction waits generalizing s with
  | nil => exact h.busy hbusy
  | cons b waits ih =>
    rw [List.length_cons, Nat.add_right_comm] at h
    have hc : e.cycle b = .ok e := by simp [Engine.cycle_wait b hp hx, Engine.waitCycle, hd b List.mem_cons_self]
    obtain ⟨t, ht, hold⟩ := h.step hbusy hc
    exact h.busy_succ hbusy ht (ih hold (fun w hw => hd w (List.mem_cons_of_mem _ hw)))

/-- After its ISSUE cycle and its WAIT cycles without done, an entry is in WAIT with its done on the wires (R102). -/
theorem Holds.reaches_done (h : Holds s e (issue :: (waits ++ bus)) (waits.length + n + 1)) (hp : e.phase = .issue)
    (hx : e.ml.entries[e.idx]? = some x) (hd : ∀ w ∈ waits, w.done = false) :
    BusyDuring 0 (1 + waits.length + 1) s
      ∧ ∃ t, Host.Core.run Sys2Proof.core (1 + waits.length) s = .next t
        ∧ Holds t { e with phase := .wait } bus n := by
  obtain ⟨t, hissue, hold⟩ := h.issue hp hx
  obtain ⟨u, hwait, hold'⟩ := hold.waits rfl hx hd
  have hlater := (hold.busy_waits rfl hx hd).after hissue.run
  exact ⟨(h.busy (by simp [hp])).trans hlater, u, (hissue.trans hwait).run, hold'⟩

/-- BUSY reads 1 in every cycle of an answered entry (R26). -/
theorem Holds.busy_entry (h : Holds s e (issue :: (waits ++ ok :: (posts ++ bus)))
      (waits.length + (posts.length + n + 1) + 1)) (hp : e.phase = .issue)
    (hx : e.ml.entries[e.idx]? = some x) (ha : AnswersEntry x lat waits ok posts) :
    BusyDuring 0 (1 + lat + x.delay) s := by
  obtain ⟨hbusy, t, hrun, hold⟩ := h.reaches_done hp hx ha.notDone
  obtain ⟨u, hdone, hold⟩ := hold.done rfl hx ha.done ha.good
  have hposts : BusyDuring 0 x.delay u := by
    obtain ⟨h0, -⟩ | ⟨-, hc⟩ := Engine.doneCycle_cases x { e with phase := .wait }
    · intro m _ hm; omega
    · rw [hc] at hold
      rw [← ha.delay]
      exact hold.busy_delay (.inr ⟨rfl, x, hx⟩) ha.delay.symm
  have hlater := hposts.after ((run_add 1 hrun).trans hdone.run)
  rw [ha.latency, ← Nat.add_assoc]
  exact hbusy.trans hlater

end

/-! ### An accepted command -/

section
variable {s : State} {i : Instr} {q : List HostOp} {latencies : List Nat} {first : BusIn}
  {prePins pins rest : List BusIn}

/-- Entry `k` of an accepted command is issued after the pre-delay and the cycles of the entries before it, and is
then answered with its latency (R104). -/
theorem AcceptedRun.reaches_issue (h : AcceptedRun s i q latencies first prePins pins rest) {k lat : Nat} {x : Entry}
    (hx : (build s.params s.eng i).entries[k]? = some x) (hl : latencies[k]? = some lat) :
    ∃ u issue waits ok posts bus n,
      Host.Core.run Sys2Proof.core (1 + (build s.params s.eng i).pre
        + cyclesOf ((build s.params s.eng i).entries.take k) (latencies.take k)) s = .next u
      ∧ AnswersEntry x lat waits ok posts
      ∧ Holds u (s.eng.issuing s.params i k) (issue :: (waits ++ ok :: (posts ++ bus)))
          (waits.length + (posts.length + n + 1) + 1) := by
  obtain ⟨before, issue, waits, ok, posts, later, hpins, hbefore, hat⟩ := h.answered.at_entry hx hl
  obtain ⟨hk, -⟩ := List.getElem?_eq_some_iff.mp hx
  have hstart := h.starts
  have hr := h.noReset
  rw [hpins, List.append_assoc] at hstart
  rw [hpins, List.length_append, ← Nat.add_assoc] at hr
  obtain ⟨u, hpass, hold⟩ := hstart.reaches_issue hk hbefore hr
  refine ⟨u, issue, waits, ok, posts, later ++ rest, later.length, hpass.run, hat, ?_⟩
  simpa [Nat.add_assoc, Nat.add_comm, Nat.add_left_comm] using hold

/-- BUSY reads 1 in the cycles of the pre-delay (R104). -/
theorem AcceptedRun.busy_preDelay (h : AcceptedRun s i q latencies first prePins pins rest) :
    BusyDuring 1 (1 + (build s.params s.eng i).pre) s := by
  have hr : noResetFor (prePins.length + pins.length + 1) s := by
    have := h.noReset
    rwa [Nat.add_assoc, Nat.add_comm] at this
  obtain ⟨t, hpass, hold⟩ := h.starts.acceptance hr
  obtain ⟨-, -, -, -, -, -, -, -, -, -, -, -, -, hphase, hwcnt⟩ := startOf_keeps s.params i s.eng
  refine BusyDuring.after hpass.run ?_
  by_cases hpos : 0 < (build s.params s.eng i).pre
  · rw [if_pos hpos] at hphase hwcnt
    rw [← h.preLength] at hwcnt ⊢
    exact hold.busy_delay (.inl hphase) hwcnt
  · intro m _ hm; omega

/-- BUSY reads 1 from the cycle after acceptance through the cycles of the first `k` entries (R104). -/
theorem AcceptedRun.busy_entries (h : AcceptedRun s i q latencies first prePins pins rest) {k : Nat}
    (hk : k ≤ (build s.params s.eng i).entries.length) :
    BusyDuring 1 (1 + (build s.params s.eng i).pre
      + cyclesOf ((build s.params s.eng i).entries.take k) (latencies.take k)) s := by
  induction k with
  | zero => simpa [cyclesOf, totalDelay] using h.busy_preDelay
  | succ k ih =>
    have hx := List.getElem?_eq_getElem (l := (build s.params s.eng i).entries) (i := k) (by omega)
    have hl := List.getElem?_eq_getElem (l := latencies) (i := k) (by rw [h.answered.length_latencies]; omega)
    obtain ⟨u, issue, waits, ok, posts, bus, n, hrun, hat, hold⟩ := h.reaches_issue hx hl
    rw [cyclesOf_take_succ hx hl, ← Nat.add_assoc _ (cyclesOf _ _)]
    exact (ih (by omega)).trans ((hold.busy_entry rfl hx hat).after hrun)

end

/-- Settles O54: each entry is reached in the ISSUE cycle of R104, and from there its done; every cycle on the way is
busy, and the engine after the last entry is idle. -/
theorem commandTiming : Obligations.CommandTiming := by
  intro s i q latencies first prePins pins rest h
  refine ⟨fun k x lat hx hl => ?_, ?_, ?_⟩
  · obtain ⟨u, issue, waits, ok, posts, bus, n, hrun, hat, hold⟩ := h.reaches_issue hx hl
    obtain ⟨-, v, hwait, hdone⟩ := hold.reaches_done rfl hx hat.notDone
    obtain ⟨hpu, hxu⟩ : u.eng.phase = .issue ∧ u.eng.ml.entries[u.eng.idx]? = some x := by
      rw [hold.eng]; exact ⟨rfl, hx⟩
    obtain ⟨hpv, hxv⟩ : v.eng.phase = .wait ∧ v.eng.ml.entries[v.eng.idx]? = some x := by
      rw [hdone.eng]; exact ⟨rfl, hx⟩
    refine ⟨⟨u, hrun, issuedNow_issue (inReset_of_noResetFor hold.noReset) hpu hxu⟩, v, ?_, ?_⟩
    · rw [hat.latency, Nat.add_comm waits.length]
      exact (run_add _ hrun).trans hwait
    · exact completedNow_done (inReset_of_noResetFor hdone.noReset) hpv (hdone.busNow ▸ hat.done)
        (hdone.busNow ▸ hat.good) hxv
  · have hbusy := h.busy_entries le_rfl
    rwa [List.take_length, List.take_of_length_le h.answered.length_latencies.le] at hbusy
  · obtain ⟨t, hrun, -, heng⟩ := commandCompletes s i q latencies first prePins pins rest h
    exact ⟨t, hrun, (Engine.busy_eq_false_iff t.eng).mpr (by rw [heng])⟩

end Sys2Proof.Machine
end

section
/-! PROOF. Single cycles of the command engine (40_command_engine.md R100 to R103, R106, R111 to R113): the write to
CMD, the sequencer by phase, the bus port, and what neither the host nor unsampled wires can change. -/

namespace Sys2Proof.Machine

/-! ### Wires and accesses the engine does not read -/

/-- Outside WAIT the cycle does not read the bus wires, and in WAIT it reads bus_err only with bus_done (R113). -/
theorem Engine.cycle_unsampled {e : Engine} {b b' : BusIn}
    (h : e.phase ≠ .wait ∨ (b.done = false ∧ b'.done = false)) : e.cycle b = e.cycle b' := by
  obtain h | ⟨hb, hb'⟩ := h
  · cases hp : e.phase with
    | wait => exact absurd hp h
    | _ => cases hx : e.ml.entries[e.idx]? <;> simp [Engine.cycle, hp, hx]
  · simp [Engine.cycle, Engine.waitCycle, hb, hb']

/-- A host write leaves PHASE to the sequencer (R44). -/
@[simp] theorem Engine.writeReg_phase (r : Reg) (w : Word) (e : Engine) : (e.writeReg r w).phase = e.phase := by
  rw [Engine.writeReg_eq]

section
variable {s : State} {v : Env}

/-- The sequencer's part of a cycle reads of the environment only the bus wires (R102). -/
theorem engineCycle_withEnv {e : Engine} (h : e.cycle v.busNow = e.cycle s.env.busNow) :
    engineCycle e { s with env := v } = mapNext (fun u => { u with env := v }) (engineCycle e s) := by
  simp only [engineCycle, h]
  cases e.cycle s.env.busNow <;> rfl

/-- A write to CMD reads of the environment only the bus wires (R100). -/
theorem commandWrite_withEnv (code : ResultCode) (start : Engine → Engine)
    (h : ∀ e : Engine, e.phase = s.eng.phase → e.cycle v.busNow = e.cycle s.env.busNow) :
    commandWrite code start { s with env := v }
      = mapNext (fun u => { u with env := v }) (commandWrite code start s) := by
  unfold commandWrite
  split
  · exact engineCycle_withEnv (h _ rfl)
  · split <;> rfl

/-- A word at CMD reads of the environment only the bus wires (R100). -/
theorem commandCycle_withEnv (w : Word)
    (h : ∀ e : Engine, e.phase = s.eng.phase → e.cycle v.busNow = e.cycle s.env.busNow) :
    commandCycle w { s with env := v } = mapNext (fun u => { u with env := v }) (commandCycle w s) := by
  unfold commandCycle
  cases decode w with
  | none => exact commandWrite_withEnv _ _ h
  | some i => simp only [exec_eq_commandWrite]; exact commandWrite_withEnv _ _ h

/-- States that differ in the environment make the same step of the engine, when the port sees the same action and
the sequencer the same wires. -/
theorem step_withEnv (hact : portAction { s with env := v } = portAction s)
    (h : ∀ e : Engine, e.phase = s.eng.phase → e.cycle v.busNow = e.cycle s.env.busNow) :
    step { s with env := v } = mapNext (fun t => { t with env := envNext { s with env := v } }) (step s) := by
  have hport : portCycle { s with env := v } = mapNext (fun u => { u with env := v }) (portCycle s) := by
    unfold portCycle
    rw [hact]
    cases portAction s with
    | reset => rfl
    | command w => exact commandCycle_withEnv w h
    | write r w => exact engineCycle_withEnv (h _ (by simp))
    | quiet => exact engineCycle_withEnv (h _ rfl)
  cases hv : s.params.valid with
  | false => simp [step, hv]
  | true =>
    rw [step_valid hv, step_valid (s := { s with env := v }) hv, hport]
    cases portCycle s <;> rfl

end

/-- Settles O40: the two states differ in wires that the sequencer does not sample. -/
theorem doneIsSampledOnlyInWait : Obligations.DoneIsSampledOnlyInWait := by
  intro s b b' q h
  have hstep := step_withEnv (s := { s with env := { s.env with busQ := b' :: q } })
    (v := { s.env with busQ := b :: q }) rfl fun e he => Engine.cycle_unsampled (by rw [he]; exact h)
  refine hstep.trans ?_
  have henv : envNext { s with env := { s.env with busQ := b :: q } }
      = envNext { s with env := { s.env with busQ := b' :: q } } := rfl
  cases ht : step { s with env := { s.env with busQ := b' :: q } } with
  | next t => rw [mapNext_next, henv, ← step_env ht]
  | fault r => rfl
  | refused r => rfl

/-- Settles O42: the state holds its own engine, and WAIT goes on without done. -/
theorem noTimeoutInWait : Obligations.NoTimeoutInWait := by
  intro s pins rest hv hinv hp hbus hdone hr
  have hx := List.getElem?_eq_getElem (hinv.idx_lt (by simp [hp]))
  have hold : Holds s s.eng (pins ++ rest) (pins.length + 0) := ⟨hv, rfl, hbus, hr⟩
  obtain ⟨t, hpass, hold'⟩ := hold.waits hp hx hdone
  exact ⟨t, hpass.run, hold'.eng⟩

/-- Settles O43: either step is the reset, or the sequencer's cycle of the engine held, OVR apart. -/
theorem hostCannotDisturbACommand : Obligations.HostCannotDisturbACommand := by
  intro s t u q hb ht hu
  have hphase := (Engine.busy_eq_true_iff s.eng).mp hb
  cases hr : s.env.inReset with
  | true => rw [step_inReset ht hr, step_inReset hu hr]
  | false =>
    obtain ⟨o, hto⟩ := step_busy ht hr hphase
    obtain ⟨o', huo⟩ := step_busy hu hr hphase
    have hcycle := Engine.cycle_ovr { s.eng with ovr := o } o' s.env.busNow
    rw [hto] at hcycle
    have heng : u.eng = { t.eng with ovr := o' } := Except.ok.inj (huo.symm.trans hcycle)
    rw [heng]

/-! ### A word at CMD -/

/-- Settles O23: while idle `exec` accepts the command or refuses it. -/
theorem commandFrameWhileIdle : Obligations.CommandFrameWhileIdle := by
  intro i s t hp ht
  rw [exec_eq_commandWrite] at ht
  obtain ⟨-, -, rfl⟩ | ⟨-, -, rfl⟩ | ⟨hbusy, -⟩ := commandWrite_cases ht
  · obtain ⟨-, -, -, hfault, hcursor, hshadow, hovr, hconfig, h0, h1, h2, h3, hctrl, -⟩ :=
      startOf_keeps s.params i s.eng
    refine ⟨rfl, rfl, fun r hstatus hfaultReg => ?_, by simp [hfault], by simp [hfault], hovr, fun hi => ?_⟩
    · cases r with
      | status => exact absurd rfl hstatus
      | fault => exact absurd rfl hfaultReg
      | _ => simp only [Engine.readReg, hconfig, hcursor, hshadow, h0, h1, h2, h3]
    · simpa [hi] using hctrl
  · refine ⟨rfl, rfl, fun r hstatus _ => ?_, rfl, rfl, rfl, fun _ => rfl⟩
    cases r with
    | status => exact absurd rfl hstatus
    | _ => rfl
  · exact absurd hp hbusy

/-- OP of a word is that of the pattern it matches (R61, R66). -/
theorem opField_of_selects {r : OpRow} {w : Word} (hr : r ∈ opcodeMap) (h : r.selects w = true) :
    opField w = opField r.pattern := by
  have hmask : ∀ r ∈ opcodeMap, opField r.mask = 0xF#4 := by decide
  have hand : opField (w &&& r.mask) = opField w &&& opField r.mask := BitVec.extractLsb'_and ..
  rw [← beq_iff_eq.mp h, hand, hmask r hr]
  exact (BitVec.and_allOnes (x := opField w)).symm

/-- OP = 1 exactly in INIT's word (R66). -/
theorem opField_eq_one_iff {w : Word} {i : Instr} (h : decode w = some i) : opField w = 1 ↔ i = .init := by
  obtain ⟨r, hr, hsel, rfl⟩ := exists_row_of_decode h
  have hone : ∀ r ∈ opcodeMap, opField r.pattern = 1 ↔ r.op = .init := by decide
  rw [opField_of_selects hr hsel, hone r hr]
  cases r.op <;> simp [operandsOf]

/-- Settles O24: BUSY drops the word; else the code of `check` says whether it is refused, and the command it decodes
to is accepted. -/
theorem wordAtCmdIsAcceptedOrRefused : Obligations.WordAtCmdIsAcceptedOrRefused := by
  intro s w q hv hw
  have hstep : step s = mapNext (endCycle s) (commandCycle w s) := by rw [step_valid hv, hw.portCycle_cmd]
  obtain ⟨start, hcmd, hstart⟩ := commandCycle_eq_commandWrite w s
  refine ⟨fun hb => ?_, fun hb hc => ?_, fun hb hc => ?_⟩
  · rw [hstep, commandCycle_busy w ((Engine.busy_eq_true_iff s.eng).mp hb)]
  · rw [hstep, hcmd, commandWrite_refused start ((Engine.busy_eq_false_iff s.eng).mp hb) hc]
    rfl
  · cases hd : decode w with
    | none => simp [check, hd] at hc
    | some i =>
      refine ⟨i, rfl, ?_⟩
      rw [hstep, hcmd, hc, commandWrite_accepted start ((Engine.busy_eq_false_iff s.eng).mp hb), hstart i hd,
        mapNext_next]
      simp only [opField_eq_one_iff hd]
      cases i <;> rfl

/-! ### The sequencer -/

/-- In a cycle in which the host writes nothing the step is the sequencer's cycle (R102). -/
theorem step_quiet {s : State} {e' : Engine} (hv : s.params.valid = true) (hq : portAction s = .quiet)
    (hc : s.eng.cycle s.env.busNow = .ok e') : step s = .next (endCycle s { s with eng := e' }) := by
  simp [step_valid hv, portCycle, hq, engineCycle, hc]

/-- A quiet port is not in reset (R200). -/
theorem inReset_of_quiet {s : State} (hq : portAction s = .quiet) : s.env.inReset = false := by
  cases hr : s.env.inReset with
  | true => simp [portAction, hr] at hq
  | false => rfl

/-- Settles O37: each clause is one branch of the sequencer's cycle. -/
theorem sequencerCycle : Obligations.SequencerCycle := by
  intro s hv hq
  have hstep {e' : Engine} (hc : s.eng.cycle s.env.busNow = .ok e') := step_quiet hv hq hc
  refine ⟨fun hp => hstep (Engine.cycle_idle _ hp), fun hp hw => hstep ?_, fun hp hw => hstep ?_, fun x hx =>
    ⟨fun hp => ?_, fun hp hd he => hstep ?_, fun hp hd he h0 => hstep ?_, fun hp hd he hpos => hstep ?_,
      fun hp hd => hstep ?_, fun hp hw => hstep ?_, fun hp hw => hstep ?_⟩⟩
  · rw [Engine.cycle_pre _ hp, Engine.preCycle, if_pos hw]
  · rw [Engine.cycle_pre _ hp, Engine.preCycle, if_neg (by omega), if_neg (by omega)]
  · have hreq : busReq s = true := by simp [busReq, inReset_of_quiet hq, hp]
    exact ⟨hreq, by simp [busData, hreq, Engine.current, hx], hstep (Engine.cycle_issue _ hp hx)⟩
  · simp [Engine.cycle_wait _ hp hx, Engine.waitCycle, hd, he]
  · simp [Engine.cycle_wait _ hp hx, Engine.waitCycle, Engine.doneCycle, hd, he, h0]
  · simp [Engine.cycle_wait _ hp hx, Engine.waitCycle, Engine.doneCycle, hd, he, hpos.ne']
  · simp [Engine.cycle_wait _ hp hx, Engine.waitCycle, hd]
  · rw [Engine.cycle_post _ hp hx, Engine.postCycle, if_pos hw]
  · rw [Engine.cycle_post _ hp hx, Engine.postCycle, if_neg (by omega), if_neg (by omega)]

/-- Settles O38: the tag is applied, and IDX is the last entry's or not. -/
theorem finishAppliesTheTag : Obligations.FinishAppliesTheTag := by
  intro e t hlt
  by_cases hlast : e.idx + 1 = e.ml.entries.length
  · rw [Engine.finish_last t hlast, if_pos (by omega)]
    cases t <;> rfl
  · rw [Engine.finish_next t hlast, if_neg (by omega)]
    cases t <;> rfl

/-- Settles O39: whatever the host does while BUSY, the step is the sequencer's abort, OVR apart. -/
theorem transportErrorAborts : Obligations.TransportErrorAborts := by
  intro s x hv hr hp hx hd he
  obtain ⟨o, hport⟩ := portCycle_busy hr (by simp [hp])
  have hc : ({ s.eng with ovr := o } : Engine).cycle s.env.busNow
      = .ok (({ s.eng with ovr := o } : Engine).abort x.byte) := by
    rw [Engine.cycle_wait (e := { s.eng with ovr := o }) _ hp hx, Engine.waitCycle, hd, he]
    rfl
  refine ⟨_, by rw [step_valid hv, hport, engineCycle, hc, mapNext_next], rfl⟩

/-! ### The bus port -/

/-- Settles O41: the three outputs by their definitions, the entry being the current one. -/
theorem busPortOutputs : Obligations.BusPortOutputs := by
  intro s
  refine ⟨?_, fun x hreq hx => ?_, fun hreq => ?_, rfl⟩
  · simp [busReq, and_comm]
  · simp [busData, hreq, Engine.current, hx]
  · simp [busData, hreq]

end Sys2Proof.Machine
end

section
/-! PROOF. A packed byte at its pins (41_nibble.md R121), a nibble as one enable pulse that the LCD latches once (R122,
R126), WRITE_NIBBLE's acceptance (R124), and the fixed signals of every byte on the bus (R125). -/

namespace Sys2Proof

/-! ### A packed byte -/

section
variable {l : PinLayout}

/-- Where no two signals share a pin, each pin of a packed byte carries its own signal (R121). -/
theorem pinOf_pack_signals (h : l.valid = true) (v : Nibble) (rs en : Bool) :
    pinOf l.bl (pack l v rs en) = true ∧ pinOf l.rs (pack l v rs en) = rs ∧ pinOf l.en (pack l v rs en) = en
    ∧ pinOf l.rw (pack l v rs en) = false ∧ pinOf l.d0 (pack l v rs en) = v.getLsbD 0
    ∧ pinOf l.d1 (pack l v rs en) = v.getLsbD 1 ∧ pinOf l.d2 (pack l v rs en) = v.getLsbD 2
    ∧ pinOf l.d3 (pack l v rs en) = v.getLsbD 3 := by
  have hd : l.positions.Nodup := of_decide_eq_true h
  simp only [PinLayout.positions, List.nodup_cons, List.mem_cons, List.not_mem_nil, not_or, or_false] at hd
  obtain ⟨hrs, hrw, hen, hbl, h0, h1, h2, -⟩ := hd
  simp [pinOf_pack, hrs, hrw, hen, hbl, h0, h1, h2, Ne.symm]

/-- The EN pin of a packed byte (R121). -/
theorem pinOf_en_pack (h : l.valid = true) (v : Nibble) (rs en : Bool) : pinOf l.en (pack l v rs en) = en :=
  have ⟨_, _, hen, _⟩ := pinOf_pack_signals h v rs en
  hen

/-- The RS pin of a packed byte (R121). -/
theorem pinOf_rs_pack (h : l.valid = true) (v : Nibble) (rs en : Bool) : pinOf l.rs (pack l v rs en) = rs :=
  have ⟨_, hrs, _⟩ := pinOf_pack_signals h v rs en
  hrs

/-- The four data bits, highest first, make up the nibble (R70). -/
theorem append_ofBool_getLsbD (v : Nibble) :
    BitVec.ofBool (v.getLsbD 3) ++ BitVec.ofBool (v.getLsbD 2) ++ BitVec.ofBool (v.getLsbD 1)
      ++ BitVec.ofBool (v.getLsbD 0) = v := by
  revert v; decide

/-- The data pins of a packed byte carry the nibble (R121). -/
theorem dataPins_pack (h : l.valid = true) (v : Nibble) (rs en : Bool) : dataPins l (pack l v rs en) = v := by
  obtain ⟨-, -, -, -, h0, h1, h2, h3⟩ := pinOf_pack_signals h v rs en
  rw [dataPins, h0, h1, h2, h3, append_ofBool_getLsbD]

end

/-- EN adds its own bit to a packed byte and nothing else (R122: `q = p | 1 << PIN_EN`). -/
theorem pack_true_eq_or (l : PinLayout) (v : Nibble) (rs : Bool) :
    pack l v rs true = pack l v rs false ||| (1#8 <<< l.en.val) := by
  have hclear : placeBit false l.en = 0#8 := by simp [placeBit]
  have hset : placeBit true l.en = 1#8 <<< l.en.val := by simp [placeBit]
  simp only [pack, hclear, hset, BitVec.or_zero]
  ac_rfl

/-- Settles O7: the pins of a packed byte under distinct positions, and the 64 bytes of the default layout. -/
theorem packPlacesEachSignal : Obligations.PackPlacesEachSignal := by
  exact ⟨fun l v rs en h => pinOf_pack_signals h v rs en, by decide⟩

end Sys2Proof

namespace Sys2Proof.Machine

/-! ### The enable pulse and its latch -/

/-- A byte with EN = 0 latches nothing at its successor (R126). -/
theorem latches_cons_of_en_clear {l : PinLayout} {b : Byte} (h : pinOf l.en b = false) (bs : List Byte) :
    latches l (b :: bs) = latches l bs := by
  cases bs <;> simp [latches, h]

/-- A falling EN latches RS and the data bits of the byte in which it has fallen (R126). -/
theorem latches_cons_of_en_falls {l : PinLayout} {a b : Byte} (ha : pinOf l.en a = true) (hb : pinOf l.en b = false)
    (bs : List Byte) : latches l (a :: b :: bs) = (pinOf l.rs b, dataPins l b) :: latches l bs := by
  rw [latches, ha, hb, latches_cons_of_en_clear hb]
  rfl

/-- The three bytes of a nibble latch it once, whatever bytes follow (R122, R126). -/
theorem latches_nib_append {p : Params} (h : p.pins.valid = true) (v : Nibble) (rs : Bool) (d : Nat) (t : Tag)
    (bs : List Byte) :
    latches p.pins ((nib p v rs d t).map Entry.byte ++ bs) = (rs, v) :: latches p.pins bs := by
  have hlow := pinOf_en_pack h v rs false
  have hhigh := pinOf_en_pack h v rs true
  calc latches p.pins ((nib p v rs d t).map Entry.byte ++ bs)
      = latches p.pins (pack p.pins v rs false :: pack p.pins v rs true :: pack p.pins v rs false :: bs) := rfl
    _ = (rs, v) :: latches p.pins bs := by
      rw [latches_cons_of_en_clear hlow, latches_cons_of_en_falls hhigh hlow, pinOf_rs_pack h, dataPins_pack h]

/-- Settles O11, by induction on the nibbles. -/
theorem eachNibbleLatchesOnce : Obligations.EachNibbleLatchesOnce := by
  intro p ns h
  induction ns with
  | nil => rfl
  | cons n ns ih => rw [List.flatMap_cons, List.map_append, latches_nib_append h, ih, List.map_cons]

/-- The low nibble of a CLEAR or HOME byte waits longer by N_EXT (R130). -/
theorem extendedWait_of_clear_or_home (p : Params) {b : Byte} (hb : b = 0x01#8 ∨ b = 0x02#8) :
    extendedWait p b false = p.nExt := by
  simp [extendedWait, hb]

/-- Settles O8: the lists by their definitions, and the two bytes of a pulse by their EN bit. -/
theorem nibbleIsOneEnablePulse : Obligations.NibbleIsOneEnablePulse := by
  intro p v rs dpost tag h
  refine ⟨rfl, pack_true_eq_or p.pins v rs, pinOf_en_pack h v rs false, rfl, fun c => rfl, fun b hb => ?_⟩
  rw [← extendedWait_of_clear_or_home p hb]
  rfl

/-! ### WRITE_NIBBLE -/

/-- Settles O14: the check passes in every STATE, and NIBLIST has no pre-delay. -/
theorem writeNibbleIsAccepted : Obligations.WriteNibbleIsAccepted := by
  intro s rs v hp
  have hcheck : checkInstr (.writeNibble rs v) s.eng.ctrl = .ok := rfl
  rw [exec_eq_commandWrite, hcheck, commandWrite_accepted _ hp]
  rfl

/-! ### Bytes on the bus -/

/-- A byte is put on the bus only in ISSUE, and under the invariant it is one of the micro-list's (R103, R22). -/
theorem exists_entry_of_busReq {s : State} (h : s.Inv) (hreq : busReq s = true) :
    ∃ x ∈ s.eng.ml.entries, busData s = x.byte := by
  obtain ⟨hiff, hdata, -⟩ := busPortOutputs s
  obtain ⟨hissue, -⟩ := hiff.mp hreq
  have hlt : s.eng.idx < s.eng.ml.entries.length := h.idx_lt (by simp [hissue])
  exact ⟨_, List.getElem_mem hlt, hdata _ hreq (List.getElem?_eq_getElem hlt)⟩

/-- Settles O53: the byte is the micro-list's, whose bytes the invariant says are wired. -/
theorem issuedBytesKeepBacklightAndWrite : Obligations.IssuedBytesKeepBacklightAndWrite := by
  intro s h hreq
  obtain ⟨x, hx, hbyte⟩ := exists_entry_of_busReq h hreq
  simpa [wiredByte, hbyte] using h.wired x hx

end Sys2Proof.Machine
end

section
/-! PROOF. A byte as two nibbles with the wait of CLEAR and HOME (42_byte.md R130), and WRITE_BYTE's acceptance (R132). -/

namespace Sys2Proof.Machine

/-- The high nibble of a byte as a quotient (R130: `b / 16`). -/
theorem highNibble_eq_ofNat_div (b : Byte) : b.extractLsb' 4 4 = BitVec.ofNat 4 (b.toNat / 16) := by
  rw [BitVec.extractLsb', Nat.shiftRight_eq_div_pow]

/-- The low nibble of a byte as a remainder (R130: `b mod 16`). -/
theorem lowNibble_eq_ofNat_mod (b : Byte) : b.extractLsb' 0 4 = BitVec.ofNat 4 (b.toNat % 16) := by
  apply BitVec.eq_of_toNat_eq
  simp

/-- The extended wait in terms of the byte's number (R130, R131). -/
theorem extendedWait_eq_ite_toNat (p : Params) (b : Byte) (rs : Bool) :
    extendedWait p b rs = if rs = false ∧ (b.toNat = 1 ∨ b.toNat = 2) then p.nExt else 0 := by
  have hclear : b = 0x01#8 ↔ b.toNat = 1 := BitVec.toNat_inj.symm
  have hhome : b = 0x02#8 ↔ b.toNat = 2 := BitVec.toNat_inj.symm
  simp only [extendedWait, hclear, hhome]

/-- Settles O9: the two nibbles and the extended wait of BYTE as numbers. -/
theorem byteIsTwoNibbles : Obligations.ByteIsTwoNibbles := by
  intro p b rs tag
  rw [byteEntries, highNibble_eq_ofNat_div, lowNibble_eq_ofNat_mod, extendedWait_eq_ite_toNat]

/-- Settles O15: the check passes in every STATE, and BYTELIST has no pre-delay. -/
theorem writeByteIsAccepted : Obligations.WriteByteIsAccepted := by
  intro s rs b hp
  have hcheck : checkInstr (.writeByte rs b) s.eng.ctrl = .ok := rfl
  rw [exec_eq_commandWrite, hcheck, commandWrite_accepted _ hp]
  rfl

end Sys2Proof.Machine
end

section
/-! PROOF. The STATE register (43_controller.md R145, R153, R154): the steps that change it, and a transport error locks
the display commands until an INIT completes. -/

namespace Sys2Proof.Machine

/-! ### STATE in the sequencer's cycle -/

/-- finish() at the last entry leaves the engine idle with OK (R105). -/
theorem Engine.finish_of_last {e : Engine} (t : Tag) (h : e.idx + 1 = e.ml.entries.length) :
    (e.finish t).phase = .idle ∧ (e.finish t).result = .ok := by
  rw [Engine.finish_last t h]
  exact ⟨rfl, rfl⟩

/-- The current entry of a running command sets STATE: it is the entry `x`, it finishes in the cycle from `e` to `e'`
with the bus wires `b`, and if it is the last one the command ends with OK (R102, R105, R107). -/
structure Engine.SetsState (b : BusIn) (x : Entry) (e e' : Engine) : Prop where
  current : e.ml.entries[e.idx]? = some x
  tag : x.tag.ctrl? = some e'.ctrl
  finishes : e.Finishes b x
  ended_of_last : e.idx + 1 = e.ml.entries.length → e'.phase = .idle ∧ e'.result = .ok

/-- An engine whose entry finishes is busy (R102). -/
theorem Engine.Finishes.phase_ne_idle {b : BusIn} {x : Entry} {e : Engine} (h : e.Finishes b x) : e.phase ≠ .idle := by
  obtain ⟨hp, -⟩ | ⟨hp, -⟩ := h <;> simp [hp]

/-- The sequencer's cycle changes STATE only at a failing done, to Uninitialized, or by the tag of the entry that
finishes (R106, R107). -/
theorem Engine.cycle_ctrl {e e' : Engine} {b : BusIn} (h : e.cycle b = .ok e') (hne : e'.ctrl ≠ e.ctrl) :
    (e.phase = .wait ∧ b.done = true ∧ b.err = true ∧ e'.ctrl = .uninitialized) ∨ ∃ x, e.SetsState b x e' := by
  have hfinish {x : Entry} {sh : Shadow} {w : Nat} (hx : e.ml.entries[e.idx]? = some x) (hf : e.Finishes b x)
      (he' : e' = ({ e with shadow := sh, wcnt := w } : Engine).finish x.tag) : e.SetsState b x e' := by
    obtain ⟨htag, -⟩ := Engine.finish_tag x.tag { e with shadow := sh, wcnt := w }
    subst he'
    refine ⟨hx, ?_, hf, fun hlast => Engine.finish_of_last x.tag hlast⟩
    rw [htag] at hne ⊢
    cases ht : x.tag.ctrl? with
    | none => simp [ht] at hne
    | some c => rfl
  obtain ⟨-, rfl⟩ | ⟨-, -, rfl⟩ | ⟨-, -, rfl⟩ | ⟨-, rfl⟩ | ⟨x, hp, -, hd, he, rfl⟩ | ⟨x, hp, hx, hd, he, rfl⟩ | ⟨-, -, rfl⟩
    | ⟨x, hp, hx, hw, rfl⟩ | ⟨-, -, rfl⟩ := Engine.cycle_cases h
  case inr.inr.inr.inr.inl => exact .inl ⟨hp, hd, he, rfl⟩
  case inr.inr.inr.inr.inr.inl =>
    obtain ⟨h0, h'⟩ | ⟨-, h'⟩ := e.doneCycle_cases x
    · exact .inr ⟨x, hfinish hx (.inr ⟨hp, hd, he, h0⟩) h'⟩
    · simp [h'] at hne
  case inr.inr.inr.inr.inr.inr.inr.inl => exact .inr ⟨x, hfinish hx (.inl ⟨hp, hw⟩) rfl⟩
  all_goals exact absurd rfl hne

/-! ### STATE in a step -/

/-- INIT's word is the one of R62. -/
theorem eq_initWord_of_decode {w : Word} (h : decode w = some .init) : w = 0x00001000#32 := by
  obtain ⟨-, hw⟩ := encodeDecodeAgree w .init h
  rw [← hw]
  decide

/-- A step changes STATE only in reset, at the acceptance of INIT, at a failing done, or by the tag of the entry that
finishes (R154). -/
theorem step_ctrl {s t : State} (ht : step s = .next t) (hne : t.eng.ctrl ≠ s.eng.ctrl) :
    (s.env.inReset = true ∧ t.eng.ctrl = .uninitialized)
    ∨ (portAction s = .command 0x00001000#32 ∧ s.eng.phase = .idle ∧ t.eng.ctrl = .uninitialized)
    ∨ (s.eng.phase = .wait ∧ s.env.busNow.done = true ∧ s.env.busNow.err = true ∧ t.eng.ctrl = .uninitialized)
    ∨ ∃ x, s.eng.SetsState s.env.busNow x t.eng := by
  cases hr : s.env.inReset with
  | true => exact .inl ⟨rfl, by rw [step_inReset ht hr]; rfl⟩
  | false =>
    obtain ⟨w, i, hw, hd, hp, -, he⟩ | ⟨w, -, -, -, he⟩ | ⟨e, he, hreg, -⟩ := step_noReset_cases ht hr
    · obtain ⟨-, -, -, -, -, -, -, -, -, -, -, -, hctrl, -⟩ := startOf_keeps s.params i s.eng
      rw [he, hctrl] at hne ⊢
      by_cases hi : i = .init
      · subst hi
        exact .inr (.inl ⟨eq_initWord_of_decode hd ▸ hw, hp, rfl⟩)
      · exact absurd (if_neg hi) hne
    · exact absurd (by rw [he]; rfl) hne
    · rw [hreg] at he
      obtain ⟨hp, hd, he', hc⟩ | ⟨x, hx, htag, hf, hend⟩ := Engine.cycle_ctrl he hne
      · exact .inr (.inr (.inl ⟨hp, hd, he', hc⟩))
      · exact .inr (.inr (.inr ⟨x, hx, htag, hf, hend⟩))

section
variable {p : Params} {e e' : Engine} {b : BusIn} {x : Entry}

/-- Under the invariant an entry that sets STATE sets the value one above the STATE held (R154). -/
theorem EngineInv.code_of_setsState (h : EngineInv p e) (hx : e.SetsState b x e') :
    e'.ctrl.code = e.ctrl.code + 1 := by
  obtain ⟨hlt, hget⟩ := List.getElem?_eq_some_iff.mp hx.current
  have hasc := h.tags_ascend hx.finishes.phase_ne_idle
  rw [List.drop_eq_getElem_cons hlt, hget, tagsAscend, hx.tag] at hasc
  simp only [Bool.and_eq_true, decide_eq_true_eq] at hasc
  exact hasc.1

/-- Under the invariant an entry that sets STATE is one of a running INIT (R145). -/
theorem EngineInv.initList_of_setsState (h : EngineInv p e) (hx : e.SetsState b x e') : ∃ c, e.ml = initList p c :=
  h.state_tags hx.finishes.phase_ne_idle ⟨x, List.mem_of_getElem? hx.current, by simp [hx.tag]⟩

end

/-- Settles O49: STATE changes as `step_ctrl` says, and the invariant says what an entry that sets it is. -/
theorem stateTransitions : Obligations.StateTransitions := by
  intro s t hinv ht hne
  obtain hreset | haccept | habort | ⟨x, hx⟩ := step_ctrl ht hne
  · exact .inl hreset
  · exact .inr (.inl haccept)
  · exact .inr (.inr (.inl habort))
  · exact .inr (.inr (.inr ⟨x, hx.current, hx.tag, hinv.code_of_setsState hx, hinv.initList_of_setsState hx,
      hx.finishes⟩))

/-! ### The lock after a transport error -/

/-- Of INIT's 42 entries the last one, and no other, sets STATE to Ready (R145). -/
theorem setsReady_initList (p : Params) (c : DisplayConfig) :
    (initList p c).entries.map (fun x => decide (x.tag.ctrl? = some .ready)) = List.replicate 41 false ++ [true] := rfl

/-- An entry of INIT's micro-list that sets STATE to Ready is the last one (R145). -/
theorem last_of_tag_ready {p : Params} {c : DisplayConfig} {k : Nat} {x : Entry}
    (hx : (initList p c).entries[k]? = some x) (htag : x.tag.ctrl? = some .ready) :
    k + 1 = (initList p c).entries.length := by
  have hlen : (initList p c).entries.length = 42 := rfl
  obtain ⟨hlt, -⟩ := List.getElem?_eq_some_iff.mp hx
  have hk : (List.replicate 41 false ++ [true])[k]? = some true := by
    rw [← setsReady_initList p c, List.getElem?_map, hx]
    simp [htag]
  by_contra hne
  have hk41 : k < 41 := by omega
  rw [List.getElem?_append_left (by rwa [List.length_replicate]), List.getElem?_replicate_of_lt hk41] at hk
  cases hk

/-- A state of a run in which STATE is not Ready. -/
structure State.NotReady (s : State) : Prop where
  valid : s.params.valid = true
  inv : s.Inv
  ctrl : s.eng.ctrl ≠ .ready

/-- A step brings STATE to Ready only where an INIT completes with OK (R145, R153). -/
theorem State.NotReady.step {s t : State} (h : s.NotReady) (ht : step s = .next t) (hno : ¬ InitCompletes s t) :
    t.NotReady where
  valid := step_params ht ▸ h.valid
  inv := stepKeepsTheInvariant s t h.inv ht
  ctrl := by
    intro hready
    obtain ⟨-, hc⟩ | ⟨-, -, hc⟩ | ⟨-, -, -, hc⟩ | ⟨x, hx⟩ := step_ctrl ht (hready ▸ h.ctrl.symm)
    iterate 3 simp [hready] at hc
    obtain ⟨c, hml⟩ := h.inv.initList_of_setsState hx
    have hlast : s.eng.idx + 1 = s.eng.ml.entries.length := by
      rw [hml]
      exact last_of_tag_ready (hml ▸ hx.current) (hready ▸ hx.tag)
    obtain ⟨hidle, hok⟩ := hx.ended_of_last hlast
    exact hno ⟨hx.finishes.phase_ne_idle, ⟨c, hml⟩, hidle, hok⟩

/-- A run of several steps is its first step, and the run from there. -/
theorem run_succ_eq_next_iff {n : Nat} {s t : State} :
    Host.Core.run Sys2Proof.core (n + 1) s = .next t ↔
      ∃ u, step s = .next u ∧ Host.Core.run Sys2Proof.core n u = .next t := by
  have hstep : Sys2Proof.core.step s = step s := rfl
  simp only [Host.Core.run, hstep]
  cases step s <;> simp

/-- STATE stays away from Ready through any number of cycles in which no INIT completes with OK (R153). -/
theorem State.NotReady.run {n : Nat} {s t : State} (h : s.NotReady) (ht : Host.Core.run Sys2Proof.core n s = .next t)
    (hno : NoInitCompletes n s) : t.NotReady := by
  induction n generalizing s with
  | zero => cases ht; exact h
  | succ n ih =>
    obtain ⟨u, hu, hut⟩ := run_succ_eq_next_iff.mp ht
    have hfirst : ¬ InitCompletes s u := hno 0 n.succ_pos s u rfl hu
    refine ih (h.step hu hfirst) hut fun k hk v w hv => ?_
    exact hno (k + 1) (Nat.succ_lt_succ hk) v w (run_succ_eq_next_iff.mpr ⟨u, hu, hv⟩)

/-- Outside Ready the check of the three display commands answers NOT_INITIALIZED (R152, R172). -/
theorem checkInstr_display_of_not_ready {i : Instr} {c : CtrlState} (hc : c ≠ .ready)
    (hi : i.op = .clear ∨ i.op = .setCursor ∨ i.op = .writeText) : checkInstr i c = .notInitialized := by
  cases i with
  | clear => exact if_neg hc
  | setCursor line col => exact if_neg hc
  | writeText line len => exact if_neg hc
  | _ => simp [Instr.op] at hi

/-- Settles O59: a failing done leaves STATE Uninitialized, and from there no run comes to Ready without an INIT that
completes. -/
theorem failureLocksDisplayCommands : Obligations.FailureLocksDisplayCommands := by
  intro s t u n hinv hp hr hd he ht hrun hno
  have hx := List.getElem?_eq_getElem (hinv.idx_lt (by simp [hp]))
  obtain ⟨hv, -⟩ := step_next ht
  obtain ⟨t', ht', heng⟩ := transportErrorAborts s _ hv hr hp hx hd he
  cases ht.symm.trans ht'
  have hfailed : t.NotReady := ⟨step_params ht ▸ hv, stepKeepsTheInvariant s t hinv ht, by rw [heng]; simp⟩
  have hu := hfailed.run hrun hno
  refine ⟨hu.ctrl, fun w i q hb hw hdec hi => ?_⟩
  have hidle := (Engine.busy_eq_false_iff u.eng).mp hb
  have hexec := exec_refused hidle (checkInstr_display_of_not_ready hu.ctrl hi) (by decide)
  refine ⟨_, by rw [stepRunsTheDecodedCommand u w i q hu.valid hw hdec, hexec, mapNext_next], rfl, ?_, ?_⟩
  · simp [busReq, hidle]
  · simp [busReq, hidle]

end Sys2Proof.Machine
end

section
/-! PROOF. The acceptance of INIT, SET_CURSOR, WRITE_TEXT and CLEAR (43_controller.md R140 to R151) and the characters
of WRITE_TEXT (R150). -/

namespace Sys2Proof.Machine

/-! ### The characters of WRITE_TEXT -/

/-- Byte `j` of a word as a number, the lowest byte first (R33). -/
theorem toNat_extractLsb'_byte (w : Word) (j : Nat) :
    (w.extractLsb' (8 * j) 8).toNat = w.toNat / 2 ^ (8 * j) % 256 := by
  rw [BitVec.extractLsb'_toNat, Nat.shiftRight_eq_div_pow]

/-- The text words in order (R33). -/
theorem Engine.textWord_eq_getElem? (e : Engine) {j : Nat} (h : j < 4) :
    e.textWord j = [e.text0, e.text1, e.text2, e.text3][j]?.getD 0 := by
  match j, h with
  | 0, _ => rfl
  | 1, _ => rfl
  | 2, _ => rfl
  | 3, _ => rfl

/-- Settles O10: the characters are a map over 0 to 15, and TB's bytes lie in the text words. -/
theorem textIsCutAndPadded : Obligations.TextIsCutAndPadded := by
  intro e len k hk
  refine ⟨length_textChars e len, ?_, ?_⟩
  · rw [Engine.textChars, List.getElem?_map, List.getElem?_range (show k < Config.textCap from hk)]
    rfl
  · rw [Engine.tb, toNat_extractLsb'_byte, Engine.textWord_eq_getElem? e (by omega)]

/-! ### Acceptance -/

/-- A command that check lets through while idle is accepted (R100). -/
theorem exec_accepted {s : State} {i : Instr} (hp : s.eng.phase = .idle) (hc : checkInstr i s.eng.ctrl = .ok) :
    exec i s = .next { s with eng := startOf s.params i s.eng } := by
  rw [exec_eq_commandWrite, hc, commandWrite_accepted _ hp]

/-- In Ready a LINE of the display passes the check (R152, R173). -/
theorem gateReadyLine_ready_of_lt {line : Nat} (h : line < 2) : gateReadyLine .ready line = .ok :=
  if_pos h

/-- The set-DDRAM-address command as a sum (R148). -/
theorem ddramCommand_eq_ofNat {line col : Nat} (hline : line < 2) (hcol : col < 16) :
    ddramCommand line col = BitVec.ofNat 8 (0x80 + 0x40 * line + col) := by
  have hall : ∀ line < 2, ∀ col < 16, ddramCommand line col = BitVec.ofNat 8 (0x80 + 0x40 * line + col) := by decide
  exact hall line hline col hcol

/-- DCTL(CONFIG) as a sum (R143). -/
theorem displayControl_eq_ofNat (c : DisplayConfig) :
    displayControl c = BitVec.ofNat 8 (0x0C + 2 * c.cursorOn.toNat + c.blink.toNat) := by
  obtain ⟨blink, cursorOn⟩ := c
  revert blink cursorOn
  decide

/-- Parameters inside the spec have a positive power-on delay (R8, R9). -/
theorem nPower_pos_of_valid {p : Params} (h : p.valid = true) : 0 < p.nPower := by
  simp only [Params.valid, Params.timesValid, Bool.and_eq_true, decide_eq_true_eq] at h
  obtain ⟨⟨hclk, ⟨⟨-, hmin⟩, -⟩, -⟩, -⟩ := h
  unfold minCycles at hmin
  omega

/-- Settles O16: the check passes in Ready, and the clamped column fits the sum of the command byte. -/
theorem setCursorIsAccepted : Obligations.SetCursorIsAccepted := by
  intro s line col hp hc hline
  have hcheck : checkInstr (.setCursor line col) s.eng.ctrl = .ok := by
    rw [hc]; exact gateReadyLine_ready_of_lt hline
  rw [exec_accepted hp hcheck, ← ddramCommand_eq_ofNat hline (by omega)]
  rfl

/-- Settles O17: the check passes in Ready, and the characters are a map over 0 to 15. -/
theorem writeTextIsAccepted : Obligations.WriteTextIsAccepted := by
  intro s line len hp hc hline
  have hcheck : checkInstr (.writeText line len) s.eng.ctrl = .ok := by
    rw [hc]; exact gateReadyLine_ready_of_lt hline
  have hstart : startOf s.params (.writeText line len) s.eng
      = s.eng.accept (textList s.params line (s.eng.textChars len)) := rfl
  rw [exec_accepted hp hcheck, hstart, textList, Engine.textChars, List.flatMap_map,
    ddramCommand_eq_ofNat hline (by decide)]
  rfl

/-- Settles O18: the check passes in Ready, and the low nibble of CLEAR's byte waits longer by N_EXT. -/
theorem clearIsAccepted : Obligations.ClearIsAccepted := by
  intro s hp hc
  have hcheck : checkInstr .clear s.eng.ctrl = .ok := by rw [hc]; rfl
  rw [exec_accepted hp hcheck, ← extendedWait_of_clear_or_home s.params (.inl rfl)]
  rfl

/-- Settles O19: the check passes in every STATE, and N_POWER is a pre-delay of at least one cycle. -/
theorem initIsAccepted : Obligations.InitIsAccepted := by
  intro s hp hv
  have hpre : 0 < (build s.params s.eng .init).pre := nPower_pos_of_valid hv
  rw [exec_accepted hp rfl, startOf, Engine.acceptInit, Engine.accept, if_pos hpre, if_pos hpre,
    ← displayControl_eq_ofNat]
  rfl

end Sys2Proof.Machine
end

section
/-! PROOF. INIT's micro-list (43_controller.md R140, R145, R146): the nibbles and bytes the LCD reads from it
(41_nibble.md R126), and the time and the state in which a successful INIT ends (70_reset_and_hazards.md R210). -/

namespace Sys2Proof.Machine

/-! ### What the LCD reads -/

/-- The latches of one byte: its high nibble, then its low nibble (R126, R130). -/
def byteLatches (c : Bool × Byte) : List (Bool × Nibble) := [(c.1, c.2.extractLsb' 4 4), (c.1, c.2.extractLsb' 0 4)]

/-- The six bytes of BYTE latch its two nibbles, whatever bytes follow (R126, R130). -/
theorem latches_byteEntries_append {p : Params} (h : p.pins.valid = true) (b : Byte) (rs : Bool) (t : Tag)
    (bs : List Byte) :
    latches p.pins ((byteEntries p b rs t).map Entry.byte ++ bs) = byteLatches (rs, b) ++ latches p.pins bs := by
  rw [byteEntries, List.map_append, List.append_assoc, latches_nib_append h, latches_nib_append h]
  rfl

/-- The two nibbles of a byte make up the byte (R126). -/
theorem highNibble_append_lowNibble (b : Byte) : b.extractLsb' 4 4 ++ b.extractLsb' 0 4 = b := by
  revert b; decide

/-- Pairing the latches of bytes gives the bytes back (R126). -/
theorem pairLatches_flatMap_byteLatches (cs : List (Bool × Byte)) : pairLatches (cs.flatMap byteLatches) = cs := by
  induction cs with
  | nil => rfl
  | cons c cs ih =>
    rw [List.flatMap_cons, byteLatches, List.cons_append, List.cons_append, List.nil_append, pairLatches,
      highNibble_append_lowNibble, ih]

/-- INIT latches its four reset nibbles and then the nibbles of its five command bytes (R140). -/
theorem latches_initList {p : Params} (h : p.pins.valid = true) (c : DisplayConfig) :
    latches p.pins ((initList p c).entries.map Entry.byte) =
      [(false, 0x3#4), (false, 0x3#4), (false, 0x3#4), (false, 0x2#4)]
        ++ [(false, 0x28#8), (false, displayControl c), (false, 0x06#8), (false, 0x01#8), (false, 0x80#8)].flatMap
            byteLatches := by
  rw [← List.append_nil (List.map _ _)]
  simp only [initList, List.map_append, List.append_assoc, latches_nib_append h, latches_byteEntries_append h]
  rfl

/-- Settles O12: four latches are INIT's nibbles, and the others pair up to its bytes. -/
theorem initDecodesToItsSequence : Obligations.InitDecodesToItsSequence := by
  intro p c h
  simp only [latches_initList h c]
  exact ⟨rfl, pairLatches_flatMap_byteLatches _⟩

/-! ### The time and the end of INIT -/

/-- Post-delays of consecutive entries add up (R108). -/
theorem totalDelay_append (xs ys : List Entry) : totalDelay (xs ++ ys) = totalDelay xs + totalDelay ys := by
  simp [totalDelay]

/-- The post-delays of one nibble (R122). -/
theorem totalDelay_nib (p : Params) (v : Nibble) (rs : Bool) (d : Nat) (t : Tag) :
    totalDelay (nib p v rs d t) = p.nSetup + p.nEn + d := by
  simp [totalDelay, nib, Nat.add_assoc]

/-- The post-delays of one byte (R130). -/
theorem totalDelay_byteEntries (p : Params) (b : Byte) (rs : Bool) (t : Tag) :
    totalDelay (byteEntries p b rs t) = 2 * (p.nSetup + p.nEn + p.nSettle) + extendedWait p b rs := by
  rw [byteEntries, totalDelay_append, totalDelay_nib, totalDelay_nib]
  omega

/-- DCTL is neither CLEAR nor HOME (R143). -/
theorem extendedWait_displayControl (p : Params) (c : DisplayConfig) (rs : Bool) :
    extendedWait p (displayControl c) rs = 0 := by
  obtain ⟨blink, cursorOn⟩ := c
  have hne : ∀ b k, displayControl ⟨b, k⟩ ≠ 0x01#8 ∧ displayControl ⟨b, k⟩ ≠ 0x02#8 := by decide
  simp [extendedWait, hne]

/-- The post-delays of INIT's entries: 14 nibbles, the longer gap after the first one, and CLEAR's wait (R210). -/
theorem totalDelay_initList (p : Params) (c : DisplayConfig) :
    totalDelay (initList p c).entries =
      14 * (p.nSetup + p.nEn + p.nSettle) + (p.nInitGap - p.nSettle) + p.nExt := by
  have h28 : extendedWait p 0x28#8 false = 0 := rfl
  have h06 : extendedWait p 0x06#8 false = 0 := rfl
  have h01 : extendedWait p 0x01#8 false = p.nExt := rfl
  have h80 : extendedWait p 0x80#8 false = 0 := rfl
  simp only [initList, totalDelay_append, totalDelay_nib, totalDelay_byteEntries, extendedWait_displayControl, h28, h06,
    h01, h80]
  omega

/-- INIT's tags lead to Ready (R145). -/
theorem ctrlAfter_initList (p : Params) (c : DisplayConfig) (k : CtrlState) :
    ctrlAfter (initList p c).entries k = .ready := rfl

/-- INIT's tags put CURSOR at (0, 0) (R146). -/
theorem cursorAfter_initList (p : Params) (c : DisplayConfig) (k : CursorPos) :
    cursorAfter (initList p c).entries k = ⟨0, 0⟩ := rfl

/-- Settles O57: the completed INIT's time, and what its tags add up to. -/
theorem initReachesReady : Obligations.InitReachesReady := by
  intro s q latencies first prePins pins rest h
  obtain ⟨t, hrun, -, heng⟩ := commandCompletes s .init q latencies first prePins pins rest h
  have hlist : build s.params s.eng .init = initList s.params s.eng.config := rfl
  have hlen : (initList s.params s.eng.config).entries.length = 42 := rfl
  have hpre : (initList s.params s.eng.config).pre = s.params.nPower := rfl
  rw [hlist, cyclesOf, hlen, hpre, totalDelay_initList] at hrun
  rw [hlist, ctrlAfter_initList, cursorAfter_initList] at heng
  refine ⟨t, hrun, ?_, ?_, ?_, ?_⟩ <;> rw [heng]
  rfl

end Sys2Proof.Machine
end

section
/-! PROOF. The statements of 60_exceptions.md: which words are illegal (R171), the order of the checks (R176), what a
refusal changes (R172, R173, R178), and that every cycle has a next state (R180). -/

namespace Sys2Proof

/-! ### The rows of the opcode map, field by field -/

/-- The bits of the `n`-bit field at bit `pos` of a word. -/
def fieldMask (pos n : Nat) : Word := (BitVec.allOnes n).setWidth 32 <<< pos

/-- Two words agree on a field exactly when they agree under its mask. -/
theorem extractLsb'_eq_iff {pos n : Nat} (h : pos + n ≤ 32) (w v : Word) :
    w.extractLsb' pos n = v.extractLsb' pos n ↔ w &&& fieldMask pos n = v &&& fieldMask pos n := by
  rw [fieldMask, ← shiftLeft_extractLsb', ← shiftLeft_extractLsb']
  refine ⟨fun hf => by rw [hf], fun hm => ?_⟩
  ext i hi
  have hbit := congrArg (BitVec.getLsbD · (pos + i)) hm
  have hlt : pos + i < 32 := by omega
  simpa [hi, hlt] using hbit

/-- A field is 0 exactly when the word is 0 under its mask. -/
theorem extractLsb'_eq_zero_iff {pos n : Nat} (h : pos + n ≤ 32) (w : Word) :
    w.extractLsb' pos n = 0 ↔ w &&& fieldMask pos n = 0 := by
  simpa using extractLsb'_eq_iff h w 0

/-- Two words agree under a union of masks exactly when they agree under each. -/
theorem and_or_eq_iff (w v m m' : Word) :
    w &&& (m ||| m') = v &&& (m ||| m') ↔ w &&& m = v &&& m ∧ w &&& m' = v &&& m' := by
  refine ⟨fun h => ⟨?_, ?_⟩, fun ⟨h, h'⟩ => by rw [BitVec.and_or_distrib_left, BitVec.and_or_distrib_left, h, h']⟩
  · have hm : (m ||| m') &&& m = m := by ext; simp +contextual
    rw [← hm, ← BitVec.and_assoc, h, BitVec.and_assoc]
  · have hm : (m ||| m') &&& m' = m' := by ext; simp +contextual
    rw [← hm, ← BitVec.and_assoc, h, BitVec.and_assoc]

/-- A word is 0 under a union of masks exactly when it is 0 under each. -/
theorem and_or_eq_zero_iff (w m m' : Word) : w &&& (m ||| m') = 0 ↔ w &&& m = 0 ∧ w &&& m' = 0 := by
  simpa using and_or_eq_iff w 0 m m'

/-- OP of a command (R60). -/
def Op.code : Op → BitVec 4
  | .init => 1
  | .clear => 2
  | .setCursor => 3
  | .writeText => 4
  | .writeByte => 5
  | .writeNibble => 6

/-- The reserved bits below OP in a command's format (R62 to R65). -/
def Op.reservedMask : Op → Word
  | .init | .clear => fieldMask 0 12
  | .setCursor | .writeText => fieldMask 10 2
  | .writeByte => fieldMask 9 3
  | .writeNibble => fieldMask 9 3 ||| fieldMask 4 4

/-- The same bits as the fields of R62 to R65, each of them 0 (R68). -/
def Op.ReservedZero (op : Op) (w : Word) : Prop :=
  match op with
  | .init | .clear => w.extractLsb' 0 12 = 0
  | .setCursor | .writeText => w.extractLsb' 10 2 = 0
  | .writeByte => w.extractLsb' 9 3 = 0
  | .writeNibble => w.extractLsb' 9 3 = 0 ∧ w.extractLsb' 4 4 = 0

/-- The reserved fields are 0 exactly when the word is 0 under their mask. -/
theorem Op.reservedZero_iff (op : Op) (w : Word) : op.ReservedZero w ↔ w &&& op.reservedMask = 0 := by
  cases op with
  | init | clear | setCursor | writeText | writeByte => exact extractLsb'_eq_zero_iff (by decide) w
  | writeNibble =>
    exact ((extractLsb'_eq_zero_iff (by decide) w).and (extractLsb'_eq_zero_iff (by decide) w)).trans
      (and_or_eq_zero_iff w (fieldMask 9 3) (fieldMask 4 4)).symm

/-- A word matches a row exactly when its OP is the row's and every reserved field is 0: the row's mask is made of these
fields (R66 to R68). -/
theorem selects_iff_fields {r : OpRow} (hr : r ∈ opcodeMap) (w : Word) :
    r.selects w = true ↔ w.extractLsb' 16 16 = 0 ∧ opField w = r.op.code ∧ r.op.ReservedZero w := by
  have hrows : ∀ r ∈ opcodeMap, r.mask = fieldMask 16 16 ||| (fieldMask 12 4 ||| r.op.reservedMask)
      ∧ r.pattern = r.pattern &&& r.mask ∧ r.pattern &&& fieldMask 16 16 = 0
      ∧ opField r.pattern = r.op.code ∧ r.pattern &&& r.op.reservedMask = 0 := by decide
  obtain ⟨hmask, hpattern, hhigh, hcode, hreserved⟩ := hrows r hr
  have hop : opField w = r.op.code ↔ w &&& fieldMask 12 4 = r.pattern &&& fieldMask 12 4 :=
    hcode ▸ extractLsb'_eq_iff (by decide) w r.pattern
  calc r.selects w = true ↔ w &&& r.mask = r.pattern &&& r.mask := by rw [← hpattern]; exact beq_iff_eq
    _ ↔ w.extractLsb' 16 16 = 0 ∧ opField w = r.op.code ∧ r.op.ReservedZero w := by
      rw [hmask, and_or_eq_iff, and_or_eq_iff, hhigh, hreserved, hop, extractLsb'_eq_zero_iff (by decide),
        Op.reservedZero_iff]

/-- The legal words, field by field (R66 to R68). -/
theorem isSome_decode_iff_fields (w : Word) :
    (decode w).isSome = true ↔ w.extractLsb' 16 16 = 0 ∧ ∃ op : Op, opField w = op.code ∧ op.ReservedZero w := by
  rw [isSome_decode_iff]
  constructor
  · rintro ⟨r, hr, hs⟩
    obtain ⟨hhigh, hop⟩ := (selects_iff_fields hr w).mp hs
    exact ⟨hhigh, r.op, hop⟩
  · rintro ⟨hhigh, op, hop⟩
    have hall : ∃ r ∈ opcodeMap, r.op = op := by cases op <;> decide
    obtain ⟨r, hr, rfl⟩ := hall
    exact ⟨r, hr, (selects_iff_fields hr w).mpr ⟨hhigh, hop⟩⟩

/-- A legal word is its OP's command with the operands read from the word (R61, R71). -/
theorem exists_op_of_decode {w : Word} {i : Instr} (h : decode w = some i) :
    ∃ op : Op, opField w = op.code ∧ i = operandsOf op w := by
  obtain ⟨r, hr, hs, rfl⟩ := exists_row_of_decode h
  obtain ⟨-, hop, -⟩ := (selects_iff_fields hr w).mp hs
  exact ⟨r.op, hop, rfl⟩

/-- An OP is a command's or one of the values R67 names. -/
theorem exists_code_or_unused (o : BitVec 4) : (∃ op : Op, o = op.code) ∨ o = 0 ∨ 7 ≤ o.toNat := by
  have hall : ∀ o : BitVec 4, (∃ r ∈ opcodeMap, o = r.op.code) ∨ o = 0 ∨ 7 ≤ o.toNat := by decide
  exact (hall o).imp_left fun ⟨r, _, h⟩ => ⟨r.op, h⟩

/-- The values R67 names are no command's. -/
theorem Op.code_used (op : Op) : op.code ≠ 0 ∧ op.code.toNat < 7 := by cases op <;> decide

/-- No two commands share an OP (R60). -/
theorem Op.code_inj {op op' : Op} (h : op.code = op'.code) : op = op' := by
  revert h; cases op <;> cases op' <;> decide

/-- A word whose OP is a command's is illegal exactly when a reserved field of its format is not 0 (R68). -/
theorem decode_eq_none_iff_of_code {w : Word} {op : Op} (h : opField w = op.code) :
    decode w = none ↔ w.extractLsb' 16 16 ≠ 0 ∨ ¬ op.ReservedZero w := by
  rw [← Option.not_isSome_iff_eq_none, isSome_decode_iff_fields, ← not_and_or]
  refine not_congr (and_congr_right fun _ => ⟨?_, fun hz => ⟨op, h, hz⟩⟩)
  rintro ⟨op', hcode, hz⟩
  exact Op.code_inj (h.symm.trans hcode) ▸ hz

/-- A word with an OP that R67 names is illegal. -/
theorem decode_eq_none_of_unused {w : Word} (h : opField w = 0 ∨ 7 ≤ (opField w).toNat) : decode w = none := by
  rw [← Option.not_isSome_iff_eq_none, isSome_decode_iff_fields]
  rintro ⟨-, op, hcode, -⟩
  obtain ⟨hzero, hseven⟩ := op.code_used
  rw [hcode] at h
  obtain h | h := h
  · exact hzero h
  · omega

end Sys2Proof

namespace Sys2Proof.Machine

/-! ### Illegal words and the check -/

/-- Settles O4: OP is a command's, and then the reserved fields of its format decide, or it is one that R67 names; the
code of `check` is then ILLEGAL_COMMAND. -/
theorem illegalWordsOnlyRecordTheCode : Obligations.IllegalWordsOnlyRecordTheCode := by
  refine ⟨fun w => ?_, fun s w q hv hp hw hd => ?_⟩
  · obtain ⟨op, hop⟩ | hunused := exists_code_or_unused (opField w)
    · rw [decode_eq_none_iff_of_code hop, hop]
      cases op <;> simp [Op.code, Op.ReservedZero, imp_iff_not_or]
    · rw [decode_eq_none_of_unused hunused]
      obtain h | h := hunused <;> simp [h]
  · have hcheck : check w s.eng.ctrl = .illegalCommand := by simp [check, hd]
    obtain ⟨-, hrefuse, -⟩ := wordAtCmdIsAcceptedOrRefused s w q hv hw
    rw [hrefuse ((Engine.busy_eq_false_iff s.eng).mpr hp) (by simp [hcheck]), hcheck]

/-- The Ready gate comes before the range of LINE (R176). -/
theorem gateReadyLine_eq (c : CtrlState) (line : Nat) :
    gateReadyLine c line = if c ≠ .ready then .notInitialized else if 1 < line then .rangeError else .ok := by
  by_cases hc : c = .ready
  · subst hc
    by_cases hline : 1 < line
    · rw [gateReadyLine_ready hline, if_neg (by simp), if_pos hline]
    · rw [gateReadyLine_ready_of_lt (by omega), if_neg (by simp), if_neg hline]
  · rw [gateReadyLine, if_neg hc, if_pos hc]

/-- Settles O6: a legal word is checked as its OP's command. -/
theorem checkPriority : Obligations.CheckPriority := by
  intro w c
  cases hd : decode w with
  | none => simp [check, hd]
  | some i =>
    obtain ⟨op, hop, rfl⟩ := exists_op_of_decode hd
    simp only [check, hd, hop]
    cases op with
    | init | writeByte | writeNibble => simp [Op.code, operandsOf, checkInstr]
    | clear => simp [Op.code, operandsOf, checkInstr, gateReady]
    | setCursor | writeText => simp [Op.code, operandsOf, checkInstr, gateReadyLine_eq, lineField]

/-! ### Refusals while idle -/

/-- Settles O20: the check answers NOT_INITIALIZED, and an idle engine requests nothing. -/
theorem displayCommandsNeedReady : Obligations.DisplayCommandsNeedReady := by
  intro s i hp hc hi _
  have hop : i.op = .clear ∨ i.op = .setCursor ∨ i.op = .writeText := by
    obtain rfl | ⟨line, col, rfl⟩ | ⟨line, len, rfl⟩ := hi <;> simp [Instr.op]
  refine ⟨exec_refused hp (checkInstr_display_of_not_ready hc hop) (by decide), ?_, ?_⟩
  · simp [busReq, hp]
  · simp [busReq, hp]

/-- Settles O21: the check answers RANGE_ERROR, whatever the other operand. -/
theorem lineOutOfRangeIsRefused : Obligations.LineOutOfRangeIsRefused := by
  intro s line arg hp hc hline _ _
  have hgate : gateReadyLine s.eng.ctrl line = .rangeError := hc ▸ gateReadyLine_ready hline
  exact ⟨exec_refused hp hgate (by decide), exec_refused hp hgate (by decide)⟩

/-! ### Every cycle has a next state -/

/-- Settles O46: under the invariant neither fault of the sequencer can occur, and the environment counts the cycle. -/
theorem everyCycleHasANextState : Obligations.EveryCycleHasANextState := by
  intro s hv hinv
  obtain ⟨t, ht⟩ := exists_step hv hinv
  exact ⟨t, ht, step_params ht, by rw [step_env ht, envNext_cycle]⟩

end Sys2Proof.Machine
end

section
/-! PROOF. Reset, the idle engine and the duration table (70_reset_and_hazards.md R200, R202, R210). -/

namespace Sys2Proof.Machine

/-! ### Reset and idle -/

/-- A cycle with rst_n = 0 is the reset of the engine, whatever the host does (R200). -/
theorem portCycle_inReset {s : State} (hr : s.env.inReset = true) : portCycle s = .next (resetCycle s) := by
  simp [portCycle, portAction, hr]

/-- A cycle with rst_n = 0 makes no bus request (R200). -/
theorem busReq_inReset {s : State} (hr : s.env.inReset = true) : busReq s = false := by
  simp [busReq, hr]

/-- An idle engine makes no bus request (R103). -/
theorem busReq_idle {s : State} (hp : s.eng.phase = .idle) : busReq s = false := by
  simp [busReq, hp]

/-- Settles O34: the port's cycle is the reset, which leaves parameters and environment alone. -/
theorem resetCycleRestoresEverything : Obligations.ResetCycleRestoresEverything := by
  intro s hv hr
  refine ⟨busReq_inReset hr, ?_⟩
  rw [step_valid hv, portCycle_inReset hr, mapNext_next]
  rfl

/-- A step from an idle engine with no word at CMD leaves the engine idle (R202). -/
theorem step_idle_phase {s t : State} (ht : step s = .next t) (hp : s.eng.phase = .idle)
    (hcmd : ∀ w, portAction s ≠ .command w) : t.eng.phase = .idle := by
  cases hr : s.env.inReset with
  | true => rw [step_inReset ht hr]; rfl
  | false =>
    obtain ⟨w, -, hw, -⟩ | ⟨w, hw, -⟩ | ⟨e, he, hreg, -⟩ := step_noReset_cases ht hr
    · exact absurd hw (hcmd w)
    · exact absurd hw (hcmd w)
    · have hpe : e.phase = .idle := by rw [hreg]; exact hp
      rw [Engine.cycle_idle _ hpe] at he
      cases he
      exact hpe

/-- Settles O36: the engine is idle before and after the step, and an idle engine requests nothing. -/
theorem idleUntilCommanded : Obligations.IdleUntilCommanded := by
  intro s t hp ht hcmd
  have hpt := step_idle_phase ht hp hcmd
  exact ⟨hpt, busReq_idle hp, busReq_idle hpt⟩

/-! ### The duration table -/

/-- A set-DDRAM-address command has bit 7 set, so it is neither CLEAR nor HOME (R130, R148). -/
theorem extendedWait_ddramCommand (p : Params) (line col : Nat) (rs : Bool) :
    extendedWait p (ddramCommand line col) rs = 0 := by
  have hbit : (ddramCommand line col).getLsbD 7 = true := by simp [ddramCommand]
  refine if_neg fun ⟨_, hb⟩ => ?_
  obtain hb | hb := hb <;> simp [hb] at hbit

/-- The post-delays of characters: data bytes have no extended wait (R130, R149). -/
theorem totalDelay_chars (p : Params) (cs : List Byte) :
    totalDelay (cs.flatMap fun c => byteEntries p c true .none)
      = cs.length * (2 * (p.nSetup + p.nEn + p.nSettle)) := by
  have hdata (c : Byte) : extendedWait p c true = 0 := rfl
  induction cs with
  | nil => simp [totalDelay]
  | cons c cs ih =>
    rw [List.flatMap_cons, totalDelay_append, totalDelay_byteEntries, hdata, ih, List.length_cons]
    ring

/-- The post-delays of SET_CURSOR's entries (R210). -/
theorem totalDelay_cursorList (p : Params) (line col : Nat) :
    totalDelay (cursorList p line col).entries = 2 * (p.nSetup + p.nEn + p.nSettle) := by
  simp only [cursorList, totalDelay_byteEntries, extendedWait_ddramCommand, Nat.add_zero]

/-- The post-delays of CLEAR's entries (R210). -/
theorem totalDelay_clearList (p : Params) :
    totalDelay (clearList p).entries = 2 * (p.nSetup + p.nEn + p.nSettle) + p.nExt := by
  rw [clearList, totalDelay_byteEntries, extendedWait_of_clear_or_home p (.inl rfl)]

/-- The number of WRITE_TEXT's entries: the cursor byte and the characters (R149). -/
theorem length_textList (p : Params) (line : Nat) (chars : List Byte) :
    (textList p line chars).entries.length = 6 + 6 * chars.length := by
  rw [textList, List.length_append, length_byteEntries, length_chars]

/-- The post-delays of WRITE_TEXT's entries: the cursor byte and the characters (R149, R210). -/
theorem totalDelay_textList (p : Params) (line : Nat) (chars : List Byte) :
    totalDelay (textList p line chars).entries
      = (chars.length + 1) * (2 * (p.nSetup + p.nEn + p.nSettle)) := by
  rw [textList, totalDelay_append, totalDelay_byteEntries, totalDelay_chars, extendedWait_ddramCommand]
  ring

/-- Settles O13: each row from the totals of the command's own list, WRITE_TEXT with its 16 characters. -/
theorem microListTotals : Obligations.MicroListTotals := by
  intro p e line col len rs b v _
  refine ⟨⟨rfl, rfl, totalDelay_nib p v rs _ _⟩, ⟨rfl, rfl, totalDelay_byteEntries p b rs _⟩,
    ⟨rfl, rfl, totalDelay_cursorList p line col⟩, ⟨rfl, rfl, totalDelay_clearList p⟩, ⟨?_, rfl, ?_⟩,
    ⟨rfl, rfl, totalDelay_initList p e.config⟩⟩
  · simp only [build, length_textList, length_textChars]
  · simp only [build, totalDelay_textList, length_textChars]
    ring

end Sys2Proof.Machine
end
